-- ==== Sys2Proof/Word.lean ====
section
/-! DEFINITION. The word types of the XTSN-AES128 core (spec/00_scope.md R6, R7). -/

namespace Sys2Proof

/-- A byte; bit 0 is its least significant bit (R6). -/
abbrev Byte := BitVec 8

/-- The command word CMD (R5, R50). -/
abbrev Word := BitVec 32

/-- A Block: sixteen bytes, `B[0]` the first byte of the unit in the host's buffer (R7). -/
abbrev Block := Vector Byte 16

/-- The sector counter's type: an unsigned number of 128 bits (R23). -/
abbrev Num128 := BitVec 128

/-- One 64-bit lane (R23) and the addend of CTRADD (R5). -/
abbrev Lane := BitVec 64

/-- A round-key schedule: 176 bytes, held as the eleven round keys `RK(0) .. RK(10)` of
sixteen bytes each (10_state.md R21, 40_aes_core.md R66). -/
abbrev Schedule := Vector Block 11

end Sys2Proof
end

