-- ==== Sys2Proof/Machine/Operands.lean ====
section
/-! DEFINITION. Numbers from Blocks and Blocks from numbers, and exclusive or
(spec/00_scope.md R8, R9; 20_memory.md R41, R42). -/

namespace Sys2Proof.Machine

/-- `LE128(B)`: `B[0]` least significant (R8). -/
def le128 (B : Block) : Num128 :=
  B[15] ++ B[14] ++ B[13] ++ B[12] ++ B[11] ++ B[10] ++ B[9] ++ B[8] ++
    B[7] ++ B[6] ++ B[5] ++ B[4] ++ B[3] ++ B[2] ++ B[1] ++ B[0]

/-- `toLE(x)`: `B[i] = x[8i+7 : 8i]` (R8). -/
def toLE (x : Num128) : Block :=
  Vector.ofFn fun i => x.extractLsb' (8 * i.val) 8

/-- `BE128(B)`: `B[0]` most significant (R8). -/
def be128 (B : Block) : Num128 :=
  B[0] ++ B[1] ++ B[2] ++ B[3] ++ B[4] ++ B[5] ++ B[6] ++ B[7] ++
    B[8] ++ B[9] ++ B[10] ++ B[11] ++ B[12] ++ B[13] ++ B[14] ++ B[15]

/-- `toBE(x)`: `B[i] = x[8(15-i)+7 : 8(15-i)]` (R8). The Block R7 writes with the 32 hexadecimal
digits of `x` is `toBE x`. -/
def toBE (x : Num128) : Block :=
  Vector.ofFn fun i => x.extractLsb' (8 * (15 - i.val)) 8

/-- `LE64(B, 0)`, the low lane of a Block (R8). -/
def le64Low (B : Block) : Lane :=
  B[7] ++ B[6] ++ B[5] ++ B[4] ++ B[3] ++ B[2] ++ B[1] ++ B[0]

/-- `LE64(B, 8)`, the high lane of a Block (R8). -/
def le64High (B : Block) : Lane :=
  B[15] ++ B[14] ++ B[13] ++ B[12] ++ B[11] ++ B[10] ++ B[9] ++ B[8]

/-- Exclusive or of Blocks, byte by byte (R9). -/
def blockXor (A B : Block) : Block :=
  Vector.zipWith (· ^^^ ·) A B

/-- `OPND[8..15]` are all zero: what CTRADD asks of its operand (41_counter.md R103). -/
def upperZero (B : Block) : Bool :=
  B[8] == 0 && B[9] == 0 && B[10] == 0 && B[11] == 0 &&
    B[12] == 0 && B[13] == 0 && B[14] == 0 && B[15] == 0

/-- The zero Block, the operand an assembler emits where OPND is ignored (30_encoding.md R57). -/
def zeroBlock : Block := Vector.replicate 16 0

end Sys2Proof.Machine
end

