-- ==== Sys2Proof/Syntax.lean ====
section
/-! DEFINITION. The commands of the block and what the host presents to it
(spec/30_encoding.md R50-R56, 60_exceptions.md R141). -/

namespace Sys2Proof

/-- The schedule selector KSEL: `d` is KS[0], the data schedule; `t` is KS[1], the tweak schedule (R50, R21). -/
inductive Slot where
  | d
  | t
  deriving DecidableEq, Repr

/-- One command with the operand it reads; a command that ignores OPND carries none (R52, R55).
One constructor per row of spec/opcode_table.json. -/
inductive Instr where
  /-- NOP (R130). -/
  | nop
  /-- KEYLD.K key (R79). -/
  | keyld (slot : Slot) (key : Block)
  /-- ENC.K block (R80). -/
  | enc (slot : Slot) (block : Block)
  /-- DEC.K block (R81). -/
  | dec (slot : Slot) (block : Block)
  /-- CTRLD value (R102). -/
  | ctrld (value : Block)
  /-- CTRADD n (R103). -/
  | ctradd (addend : Block)
  /-- CTRRD (R104). -/
  | ctrrd
  /-- TWLD block (R113). -/
  | twld (tweak : Block)
  /-- TWRD (R114). -/
  | twrd
  /-- TWGEN (R115). -/
  | twgen
  /-- TWDBL (R116). -/
  | twdbl
  /-- XTSE block (R120). -/
  | xtse (block : Block)
  /-- XTSD block (R121). -/
  | xtsd (block : Block)
  /-- STATRD (R131). -/
  | statrd
  deriving DecidableEq, Repr

/-- The response codes of R141. Codes 7 to 15 are never produced, so the type has no name for them. -/
inductive Code where
  /-- 0, OK: the command completed. -/
  | ok
  /-- 1, E_OPC: CMD[7:0] is not an assigned opcode. -/
  | eOpc
  /-- 2, E_RSVD: a reserved CMD bit is set. -/
  | eRsvd
  /-- 3, E_OPND: CTRADD with a nonzero byte among OPND[8..15]. -/
  | eOpnd
  /-- 4, E_NOKEY: the schedule slot the command needs was never loaded. -/
  | eNokey
  /-- 5, E_NOCTR: the counter was never loaded. -/
  | eNoctr
  /-- 6, E_NOTWK: the tweak register was never loaded. -/
  | eNotwk
  deriving DecidableEq, Repr

/-- What the host presents for one command: the command word CMD and the operand OPND (R50). -/
structure Request where
  cmd  : Word
  opnd : Block
  deriving DecidableEq, Repr

/-- What can happen at the block's inputs (log entries 2, 4, 5). -/
inductive Event where
  /-- The host, holding the response to its previous command, issues the next one (R45, R168). -/
  | command (req : Request)
  /-- The host issues a command before it has the response to the previous one (R168, U8). -/
  | overlapped (req : Request)
  /-- Reset is asserted (R160), possibly while the command `abandoned` is in progress. -/
  | reset (abandoned : Option Request)
  deriving DecidableEq, Repr

end Sys2Proof
end

