-- ==== Sys2Proof/WellFormed.lean ====
section
/-! DEFINITION. Which instructions a host may present without breaking a requirement on the instruction itself.
The types leave one such requirement (spec/41_counter.md R103): the upper operand bytes of CTRADD. -/

namespace Sys2Proof

/-- The instruction meets every requirement the spec puts on its fields alone: `OPND[8..15]` of CTRADD "must all be
zero" (R103). An ill-formed CTRADD still encodes, decodes and runs: it is rejected with E_OPND. -/
def Instr.wellFormed (i : Instr) : Bool :=
  match i with
  | .ctradd addend => Machine.upperZero addend
  | .nop => true
  | .keyld _ _ => true
  | .enc _ _ => true
  | .dec _ _ => true
  | .ctrld _ => true
  | .ctrrd => true
  | .twld _ => true
  | .twrd => true
  | .twgen => true
  | .twdbl => true
  | .xtse _ => true
  | .xtsd _ => true
  | .statrd => true

end Sys2Proof
end

