-- ==== Sys2Proof/Decode.lean ====
section
/-! DEFINITION. Decoding and encoding of commands (spec/30_encoding.md R50-R55, 60_exceptions.md R142 checks 1 and 2). -/

namespace Sys2Proof

/-- OPC = CMD[7:0] (R50). -/
def opcOf (cmd : Word) : Byte := cmd.extractLsb' 0 8

/-- KSEL = CMD[8] (R50): 0 is the data schedule, 1 the tweak schedule. -/
def kselOf (cmd : Word) : BitVec 1 := cmd.extractLsb' 8 1

/-- RSVD = CMD[31:9] (R50). -/
def rsvdOf (cmd : Word) : BitVec 23 := cmd.extractLsb' 9 23

/-- The slot that a KSEL value selects (R50). -/
def slotOf (ksel : BitVec 1) : Slot := if ksel = 0 then .d else .t

/-- A row of the opcode map: the opcode, whether it takes a selector, and the command it selects (R52). -/
structure OpcodeRow where
  opc      : Byte
  selector : Bool
  make     : Slot → Block → Instr

/-- The opcode map, row by row as R52 writes it. -/
def opcodeMap : List OpcodeRow :=
  [⟨0x00, false, fun _ _ => .nop⟩,
   ⟨0x01, true, .keyld⟩,
   ⟨0x02, true, .enc⟩,
   ⟨0x03, true, .dec⟩,
   ⟨0x10, false, fun _ opnd => .ctrld opnd⟩,
   ⟨0x11, false, fun _ opnd => .ctradd opnd⟩,
   ⟨0x12, false, fun _ _ => .ctrrd⟩,
   ⟨0x20, false, fun _ opnd => .twld opnd⟩,
   ⟨0x21, false, fun _ _ => .twrd⟩,
   ⟨0x22, false, fun _ _ => .twgen⟩,
   ⟨0x23, false, fun _ _ => .twdbl⟩,
   ⟨0x30, false, fun _ opnd => .xtse opnd⟩,
   ⟨0x31, false, fun _ opnd => .xtsd opnd⟩,
   ⟨0xF0, false, fun _ _ => .statrd⟩]

/-- The row of an assigned opcode (R52). -/
def rowOf (opc : Byte) : Option OpcodeRow := opcodeMap.find? fun row => row.opc == opc

/-- The command that a request selects, or the code of its rejection. Every request is decoded: an unassigned OPC gives E_OPC
whatever RSVD and KSEL hold, and an assigned one gives E_RSVD when RSVD is not zero or KSEL is 1 on a row without a
selector (R52, R53, R54; the order is that of R142). -/
def decode (r : Request) : Except Code Instr :=
  match rowOf (opcOf r.cmd) with
  | none => .error .eOpc
  | some row =>
    if rsvdOf r.cmd ≠ 0 ∨ (kselOf r.cmd = 1 ∧ row.selector = false) then .error .eRsvd
    else .ok (row.make (slotOf (kselOf r.cmd)) r.opnd)

/-- The opcode of a command (the OPC column of R52). -/
def opcodeOf (i : Instr) : Byte :=
  match i with
  | .nop => 0x00
  | .keyld _ _ => 0x01
  | .enc _ _ => 0x02
  | .dec _ _ => 0x03
  | .ctrld _ => 0x10
  | .ctradd _ => 0x11
  | .ctrrd => 0x12
  | .twld _ => 0x20
  | .twrd => 0x21
  | .twgen => 0x22
  | .twdbl => 0x23
  | .xtse _ => 0x30
  | .xtsd _ => 0x31
  | .statrd => 0xF0

/-- The KSEL bit of a command: 1 for `.T` on KEYLD, ENC and DEC, else 0 (R50). -/
def selectorOf (i : Instr) : BitVec 1 :=
  match i with
  | .keyld .t _ => 1
  | .enc .t _ => 1
  | .dec .t _ => 1
  | .keyld .d _ => 0
  | .enc .d _ => 0
  | .dec .d _ => 0
  | .nop => 0
  | .ctrld _ => 0
  | .ctradd _ => 0
  | .ctrrd => 0
  | .twld _ => 0
  | .twrd => 0
  | .twgen => 0
  | .twdbl => 0
  | .xtse _ => 0
  | .xtsd _ => 0
  | .statrd => 0

/-- The operand of a command; zero for a command that ignores OPND (R55, R57). -/
def operandOf (i : Instr) : Block :=
  match i with
  | .keyld _ key => key
  | .enc _ block => block
  | .dec _ block => block
  | .ctrld value => value
  | .ctradd addend => addend
  | .twld tweak => tweak
  | .xtse block => block
  | .xtsd block => block
  | .nop => Machine.zeroBlock
  | .ctrrd => Machine.zeroBlock
  | .twrd => Machine.zeroBlock
  | .twgen => Machine.zeroBlock
  | .twdbl => Machine.zeroBlock
  | .statrd => Machine.zeroBlock

/-- Whether a command reads OPND (R55). -/
def readsOperand (i : Instr) : Bool :=
  match i with
  | .keyld _ _ => true
  | .enc _ _ => true
  | .dec _ _ => true
  | .ctrld _ => true
  | .ctradd _ => true
  | .twld _ => true
  | .xtse _ => true
  | .xtsd _ => true
  | .nop => false
  | .ctrrd => false
  | .twrd => false
  | .twgen => false
  | .twdbl => false
  | .statrd => false

/-- CMD with the fields RSVD = 0, KSEL and OPC (R50). -/
def cmdWord (ksel : BitVec 1) (opc : Byte) : Word := 0#23 ++ ksel ++ opc

/-- The request that presents a command (R50, R52). -/
def encode (i : Instr) : Request :=
  { cmd := cmdWord (selectorOf i) (opcodeOf i), opnd := operandOf i }

/-- The request whose bits are `w`, of which the first `nbits` count and the rest are 0: CMD in bits 31:0 and, above it,
`OPND[i]` in bits 39+8i : 32+8i (the numbering of spec/opcode_table.json, continued over OPND; log entry 7). -/
def tableRequest (nbits w : Nat) : Request :=
  let v := w % 2 ^ nbits
  { cmd := BitVec.ofNat 32 v, opnd := Machine.toLE (BitVec.ofNat 128 (v / 2 ^ 32)) }

/-- What the decoder reads from an instruction numbered as spec/opcode_table.json numbers it. -/
def decodeTableWord (nbits w : Nat) : Option Instr :=
  match decode (tableRequest nbits w) with
  | .ok i => some i
  | .error _ => none

end Sys2Proof
end

