-- ==== Sys2Proof/Machine/Aes.lean ====
section
/-! DEFINITION. AES-128: the field GF(2^8), the tables, key expansion, the cipher and the inverse cipher
(spec/40_aes_core.md R60-R76). -/

namespace Sys2Proof.Machine

/-! ### The field (R60) -/

/-- `xtime(b)`, the product of `b` by x (R60). -/
def xtime (b : Byte) : Byte := (b <<< 1) ^^^ (if b[7] then 0x1b else 0x00)

/-- The loop of `mul` (R60), run `n` more times with the partial product `p`. -/
def gfMulLoop : Nat → Byte → Byte → Byte → Byte
  | 0, p, _, _ => p
  | n + 1, p, a, b => gfMulLoop n (if b[0] then p ^^^ a else p) (xtime a) (b >>> 1)

/-- `mul(a, b)`, multiplication modulo x^8 + x^4 + x^3 + x + 1 (R60). -/
def gfMul (a b : Byte) : Byte := gfMulLoop 8 0 a b

/-! ### The tables (R61, R62, R63) -/

/-- The S-box table of R61: sixteen rows, each of the sixteen columns 0 to f from the left. -/
def sboxRows : List Num128 :=
  [0x637c777bf26b6fc53001672bfed7ab76, 0xca82c97dfa5947f0add4a2af9ca472c0,
   0xb7fd9326363ff7cc34a5e5f171d83115, 0x04c723c31896059a071280e2eb27b275] ++
  [0x09832c1a1b6e5aa0523bd6b329e32f84, 0x53d100ed20fcb15b6acbbe394a4c58cf,
   0xd0efaafb434d338545f9027f503c9fa8, 0x51a3408f929d38f5bcb6da2110fff3d2] ++
  [0xcd0c13ec5f974417c4a77e3d645d1973, 0x60814fdc222a908846eeb814de5e0bdb,
   0xe0323a0a4906245cc2d3ac629195e479, 0xe7c8376d8dd54ea96c56f4ea657aae08] ++
  [0xba78252e1ca6b4c6e8dd741f4bbd8b8a, 0x703eb5664803f60e613557b986c11d9e,
   0xe1f8981169d98e949b1e87e9ce5528df, 0x8ca1890dbfe6426841992d0fb054bb16]

/-- The inverse S-box table of R62, laid out as `sboxRows`. -/
def invSboxRows : List Num128 :=
  [0x52096ad53036a538bf40a39e81f3d7fb, 0x7ce339829b2fff87348e4344c4dee9cb,
   0x547b9432a6c2233dee4c950b42fac34e, 0x082ea16628d924b2765ba2496d8bd125] ++
  [0x72f8f66486689816d4a45ccc5d65b692, 0x6c704850fdedb9da5e154657a78d9d84,
   0x90d8ab008cbcd30af7e45805b8b34506, 0xd02c1e8fca3f0f02c1afbd0301138a6b] ++
  [0x3a9111414f67dcea97f2cfcef0b4e673, 0x96ac7422e7ad3585e2f937e81c75df6e,
   0x47f11a711d29c5896fb7620eaa18be1b, 0xfc563e4bc6d279209adbc0fe78cd5af4] ++
  [0x1fdda8338807c731b11210592780ec5f, 0x60517fa919b54a0d2de57a9f93c99cef,
   0xa0e03b4dae2af5b0c8ebbb3c83539961, 0x172b047eba77d626e169146355210c7d]

/-- The entry of a table at row `a[7:4]`, column `a[3:0]` (R61). -/
def tableEntry (rows : List Num128) (a : Byte) : Byte :=
  (rows.getD (a.toNat / 16) 0).extractLsb' (8 * (15 - a.toNat % 16)) 8

/-- `S(a)` (R61). -/
def sbox (a : Byte) : Byte := tableEntry sboxRows a

/-- `InvS(a)` (R62). -/
def invSbox (a : Byte) : Byte := tableEntry invSboxRows a

/-- The affine map of the S-box: `b xor rotl8(b,1) xor rotl8(b,2) xor rotl8(b,3) xor rotl8(b,4) xor 0x63` (R61). -/
def sboxAffine (b : Byte) : Byte :=
  b ^^^ b.rotateLeft 1 ^^^ b.rotateLeft 2 ^^^ b.rotateLeft 3 ^^^ b.rotateLeft 4 ^^^ 0x63

/-- `Rcon[j]`, j in 1..10 (R63). -/
def rcon (j : Nat) : Byte :=
  [0x01, 0x02, 0x04, 0x08, 0x10, 0x20, 0x40, 0x80, 0x1b, 0x36].getD (j - 1) 0

/-! ### Key expansion (R64, R65, R66) -/

/-- A word of the key schedule: four bytes `[a0, a1, a2, a3]` (R64). -/
abbrev AesWord := Vector Byte 4

/-- Exclusive or of words, byte by byte (R64). -/
def wordXor (a b : AesWord) : AesWord := Vector.zipWith (· ^^^ ·) a b

/-- `RotWord` (R64). -/
def rotWord (a : AesWord) : AesWord := #v[a[1], a[2], a[3], a[0]]

/-- `SubWord` (R64). -/
def subWord (a : AesWord) : AesWord := a.map sbox

/-- The round-constant word `[Rcon[j], 0x00, 0x00, 0x00]` (R63). -/
def rconWord (j : Nat) : AesWord := #v[rcon j, 0, 0, 0]

/-- Word `c` of a round key: its bytes `4c .. 4c+3` (R66). -/
def wordOf (B : Block) (c : Fin 4) : AesWord :=
  Vector.ofFn fun j => B[4 * c.val + j.val]

/-- The round key of four words (R66). -/
def ofWords (w0 w1 w2 w3 : AesWord) : Block :=
  #v[w0[0], w0[1], w0[2], w0[3], w1[0], w1[1], w1[2], w1[3],
    w2[0], w2[1], w2[2], w2[3], w3[0], w3[1], w3[2], w3[3]]

/-- Four turns of the loop of R65, from `i = 4j` to `i = 4j + 3`: round key `j` from round key `j - 1`. Only the first of
the four has `i mod 4 = 0`. -/
def nextRoundKey (j : Nat) (prev : Block) : Block :=
  let w0 := wordXor (wordOf prev 0) (wordXor (subWord (rotWord (wordOf prev 3))) (rconWord j))
  let w1 := wordXor (wordOf prev 1) w0
  let w2 := wordXor (wordOf prev 2) w1
  let w3 := wordXor (wordOf prev 3) w2
  ofWords w0 w1 w2 w3

/-- `RK(r)` of a key (R65, R66): `RK(0)` is the key itself. -/
def roundKeyOf (key : Block) : Nat → Block
  | 0 => key
  | r + 1 => nextRoundKey (r + 1) (roundKeyOf key r)

/-- `KeyExpansion(key)` (R65, R66): total, every key is valid. -/
def keyExpansion (key : Block) : Schedule := Vector.ofFn fun r => roundKeyOf key r.val

/-- Word `w[i]` of a schedule, i in 0..43: bytes `4i .. 4i+3` of the 176 (R66). -/
def scheduleWord (K : Schedule) (i : Fin 44) : AesWord :=
  wordOf K[i.val / 4] ⟨i.val % 4, Nat.mod_lt _ (by decide)⟩

/-! ### The state array and the round transformations (R67-R71, R73-R75) -/

/-- Entry `s[row][col]` of the state array a Block stands for: byte `row + 4 col` (R67). -/
def cell (B : Block) (row col : Fin 4) : Byte := B[row.val + 4 * col.val]

/-- The Block of a state array (R67). -/
def ofCells (f : Fin 4 → Fin 4 → Byte) : Block :=
  Vector.ofFn fun i => f ⟨i.val % 4, Nat.mod_lt _ (by decide)⟩ ⟨i.val / 4, by omega⟩

/-- `SubBytes` (R68). -/
def subBytes (B : Block) : Block := ofCells fun r c => sbox (cell B r c)

/-- `ShiftRows` (R69): `s'[r][c] = s[r][(c + r) mod 4]`. -/
def shiftRows (B : Block) : Block := ofCells fun r c => cell B r (c + r)

/-- Row `r` of a column mixed with coefficients given from the diagonal on: `k0•a_r xor k1•a_(r+1) xor k2•a_(r+2) xor
k3•a_(r+3)`, indices mod 4; the shape of every line of R70 and R75. -/
def mixEntry (k0 k1 k2 k3 : Byte) (B : Block) (r c : Fin 4) : Byte :=
  gfMul k0 (cell B r c) ^^^ gfMul k1 (cell B (r + 1) c) ^^^ gfMul k2 (cell B (r + 2) c) ^^^ gfMul k3 (cell B (r + 3) c)

/-- `MixColumns` (R70). -/
def mixColumns (B : Block) : Block := ofCells (mixEntry 0x02 0x03 0x01 0x01 B)

/-- `AddRoundKey(r)` under the schedule `K` (R71). -/
def addRoundKey (K : Schedule) (r : Fin 11) (B : Block) : Block := blockXor B K[r]

/-- `InvShiftRows` (R73): `s'[r][(c + r) mod 4] = s[r][c]`. -/
def invShiftRows (B : Block) : Block := ofCells fun r c => cell B r (c - r)

/-- `InvSubBytes` (R74). -/
def invSubBytes (B : Block) : Block := ofCells fun r c => invSbox (cell B r c)

/-- `InvMixColumns` (R75). -/
def invMixColumns (B : Block) : Block := ofCells (mixEntry 0x0e 0x0b 0x0d 0x09 B)

/-! ### The cipher and the inverse cipher (R72, R76) -/

/-- One of rounds 1 to 9 of the cipher (R72). -/
def cipherRound (K : Schedule) (B : Block) (r : Fin 11) : Block :=
  addRoundKey K r (mixColumns (shiftRows (subBytes B)))

/-- `Cipher(K, in)` (R72). -/
def cipher (K : Schedule) (B : Block) : Block :=
  let nine := [1, 2, 3, 4, 5, 6, 7, 8, 9].foldl (cipherRound K) (addRoundKey K 0 B)
  addRoundKey K 10 (shiftRows (subBytes nine))

/-- One of rounds 9 down to 1 of the inverse cipher (R76). -/
def invCipherRound (K : Schedule) (B : Block) (r : Fin 11) : Block :=
  invMixColumns (addRoundKey K r (invSubBytes (invShiftRows B)))

/-- `InvCipher(K, in)` (R76). -/
def invCipher (K : Schedule) (B : Block) : Block :=
  let nine := [9, 8, 7, 6, 5, 4, 3, 2, 1].foldl (invCipherRound K) (addRoundKey K 10 B)
  addRoundKey K 0 (invSubBytes (invShiftRows nine))

end Sys2Proof.Machine
end

