-- ==== Sys2Proof/Machine/State.lean ====
section
/-! DEFINITION. The state of the block (spec/10_state.md R20-R31), why a step may stop, and reset. -/

namespace Sys2Proof.Machine

/-- Why a step stops with a fault: for no reason at all. "There is no trap" (60_exceptions.md R140, R145): misuse of a
command is a rejection, which is a next state, and there is no address that could be absent (20_memory.md R40). -/
inductive Fault where
  deriving DecidableEq, Repr

/-- Why a step is refused. -/
inductive Refusal where
  /-- Raised by `exec` for an instruction that has no meaning yet; no arm raises it. Safe. -/
  | notModelled (mnemonic : String)
  /-- Raised by the step for a host that issues a command before the response to the previous one: "the spec gives that no
  meaning, and a model refuses such a host" (70_reset_and_hazards.md R168, U8). Safe: no claim is made of such a run. -/
  | overlappedCommand
  deriving DecidableEq, Repr

/-- The state. The spec's ⊥, "no value: the content of a register whose valid bit is 0" (R26), is `none`; a register's
valid bit is 1 exactly when the register holds a value, so the two have one home (log entry 1). -/
structure State where
  /-- KS[0], the data schedule; K0V is 1 when it holds a value (R20, R21). -/
  ks0 : Option Schedule
  /-- KS[1], the tweak schedule; K1V is 1 when it holds a value (R20, R21). -/
  ks1 : Option Schedule
  /-- CTR, the sector counter; CV is 1 when it holds a value (R23). -/
  ctr : Option Num128
  /-- TWK, the tweak; TV is 1 when it holds a value (R24). -/
  twk : Option Block
  /-- RES, the result register; RV is 1 when it holds a value (R25). -/
  res : Option Block
  /-- STATUS.ERR: a command has been rejected since reset (R27). -/
  err : Bool
  /-- STATUS.LASTERR: the code of the most recent rejected command since reset, `ok` (0) if none (R27). -/
  lastErr : Code
  /-- RSP of the most recent response, `none` if there was none since reset (30_encoding.md R56; log entry 3). -/
  rsp : Option Code
  /-- What the host and the platform have yet to present, in order (20_memory.md R45; log entry 2). -/
  host : List Event
  deriving DecidableEq, Repr

/-- The block right after reset (R31, R160): STATUS = 0 and every other register ⊥. It waits for its first command
(70_reset_and_hazards.md R161). -/
def State.reset : State :=
  { ks0 := none, ks1 := none, ctr := none, twk := none, res := none
    err := false, lastErr := .ok, rsp := none, host := [] }

end Sys2Proof.Machine
end

