-- ==== Sys2Proof/Machine/Flags.lean ====
section
/-! DEFINITION. STATUS and the response codes as bits (spec/10_state.md R26, R27; 60_exceptions.md R141). -/

namespace Sys2Proof.Machine

/-- The 4-bit value of a response code (R141). -/
def codeBits (c : Code) : BitVec 4 :=
  match c with
  | .ok => 0
  | .eOpc => 1
  | .eRsvd => 2
  | .eOpnd => 3
  | .eNokey => 4
  | .eNoctr => 5
  | .eNotwk => 6

/-- K0V: KS[0] holds a value (R26, R27). -/
def State.k0v (s : State) : Bool := s.ks0.isSome

/-- K1V: KS[1] holds a value (R26, R27). -/
def State.k1v (s : State) : Bool := s.ks1.isSome

/-- CV: CTR holds a value (R26, R27). -/
def State.cv (s : State) : Bool := s.ctr.isSome

/-- TV: TWK holds a value (R26, R27). -/
def State.tv (s : State) : Bool := s.twk.isSome

/-- RV: RES holds a value (R26, R27). -/
def State.rv (s : State) : Bool := s.res.isSome

/-- The five valid bits, STATUS[4:0] (R27). -/
def State.validBits (s : State) : BitVec 5 :=
  BitVec.ofBool s.rv ++ BitVec.ofBool s.tv ++ BitVec.ofBool s.cv ++ BitVec.ofBool s.k1v ++ BitVec.ofBool s.k0v

/-- STATUS (R27), from bit 31 down: reserved 31:16, ERR 15, reserved 14:12, LASTERR 11:8, reserved 7:5, RV, TV, CV, K1V,
K0V; reserved bits read 0. -/
def State.status (s : State) : BitVec 32 :=
  0#16 ++ BitVec.ofBool s.err ++ 0#3 ++ codeBits s.lastErr ++ 0#3 ++ s.validBits

end Sys2Proof.Machine
end

