-- ==== Sys2Proof/Machine/Ops.lean ====
section
/-! DEFINITION. The operations every command is written with: reading a register that may hold no value, writing a
register, completing, being rejected, and reset (spec/00_scope.md R10; 10_state.md R20-R31; 60_exceptions.md R140;
70_reset_and_hazards.md R160). Writing a register makes its valid bit 1 (R26). -/

namespace Sys2Proof.Machine

/-- The outcome of a command. -/
abbrev Result := Host.Outcome State Fault Refusal

/-- KS[slot] (R21). -/
def State.key (s : State) (slot : Slot) : Option Schedule :=
  match slot with
  | .d => s.ks0
  | .t => s.ks1

/-- `S.KS[slot] <- K` with its valid bit; the other slot stays (R21, R22). -/
def State.setKey (s : State) (slot : Slot) (K : Schedule) : State :=
  match slot with
  | .d => { s with ks0 := some K }
  | .t => { s with ks1 := some K }

/-- `S.CTR <- x` with CV (R23). -/
def State.setCtr (s : State) (x : Num128) : State := { s with ctr := some x }

/-- `S.TWK <- T` with TV (R24). -/
def State.setTwk (s : State) (T : Block) : State := { s with twk := some T }

/-- `S.RES <- B` with RV (R25). -/
def State.setRes (s : State) (B : Block) : State := { s with res := some B }

/-- Put a code on RSP (R56). -/
def State.respond (s : State) (c : Code) : State := { s with rsp := some c }

/-- The rejection of a command with code `c`: ERR and LASTERR, the response, and nothing else (R140). -/
def State.reject (s : State) (c : Code) : State :=
  { s with err := true, lastErr := c, rsp := some c }

/-- `respond(0)`: the command completes in the state `s` its writes have made (R10). -/
def complete (s : State) : Result := .next (s.respond .ok)

/-- `reject(c)` (R10, R140). -/
def rejected (s : State) (c : Code) : Result := .next (s.reject c)

/-- Go on with the schedule of a slot, or reject with E_NOKEY when it was never loaded (R142 check 4). -/
def needKey (s : State) (slot : Slot) (k : Schedule → Result) : Result :=
  match s.key slot with
  | none => rejected s .eNokey
  | some K => k K

/-- Go on with the counter, or reject with E_NOCTR when it was never loaded (R142 check 5). -/
def needCtr (s : State) (k : Num128 → Result) : Result :=
  match s.ctr with
  | none => rejected s .eNoctr
  | some x => k x

/-- Go on with the tweak, or reject with E_NOTWK when it was never loaded (R142 check 6). -/
def needTwk (s : State) (k : Block → Result) : Result :=
  match s.twk with
  | none => rejected s .eNotwk
  | some T => k T

/-- The state after reset is asserted (R160): the reset state, with whatever the host and the platform do next. -/
def State.afterReset (s : State) : State := { State.reset with host := s.host }

/-- The state with the rest of what the host and the platform do. -/
def State.withHost (s : State) (rest : List Event) : State := { s with host := rest }

/-- What the host sees after a command (R56): the code and the current content of RES, ⊥ while RV = 0. -/
structure Response where
  code : BitVec 4
  res  : Option Block
  deriving DecidableEq, Repr

/-- The response that stands at the interface, if a command has been answered since reset (R56). -/
def State.response (s : State) : Option Response :=
  s.rsp.map fun c => { code := codeBits c, res := s.res }

end Sys2Proof.Machine
end

