-- ==== Sys2Proof/Machine/Cipher.lean ====
section
/-! DEFINITION. The meanings of KEYLD, ENC and DEC (spec/40_aes_core.md R79-R81). -/

namespace Sys2Proof.Machine

/-- KEYLD.K key (R79): no key is rejected, and only the slot and its valid bit are written. -/
def execKeyld (slot : Slot) (key : Block) (s : State) : Result :=
  complete (s.setKey slot (keyExpansion key))

/-- ENC.K block (R80). -/
def execEnc (slot : Slot) (block : Block) (s : State) : Result :=
  needKey s slot fun K => complete (s.setRes (cipher K block))

/-- DEC.K block (R81). -/
def execDec (slot : Slot) (block : Block) (s : State) : Result :=
  needKey s slot fun K => complete (s.setRes (invCipher K block))

end Sys2Proof.Machine
end

