-- ==== Sys2Proof/Machine/Control.lean ====
section
/-! DEFINITION. The meanings of NOP and STATRD (spec/44_control.md R130, R131). -/

namespace Sys2Proof.Machine

/-- NOP (R130). -/
def execNop (s : State) : Result := complete s

/-- STATRD (R131): STATUS as it stood before this command, so RV is set after it was read. -/
def execStatrd (s : State) : Result :=
  complete (s.setRes (toLE (s.status.zeroExtend 128)))

end Sys2Proof.Machine
end

