-- ==== Sys2Proof/Machine/Counter.lean ====
section
/-! DEFINITION. The 128-bit adder and the meanings of CTRLD, CTRADD and CTRRD (spec/41_counter.md R100-R104). -/

namespace Sys2Proof.Machine

/-- LO = CTR[63:0] (R23). -/
def lowLane (x : Num128) : Lane := x.extractLsb' 0 64

/-- HI = CTR[127:64] (R23). -/
def highLane (x : Num128) : Lane := x.extractLsb' 64 64

/-- `Add128(x, n)` (R100): the high lane is incremented when the low sum wrapped, and wraps itself without a flag. -/
def add128 (x : Num128) (n : Lane) : Num128 :=
  let lo := lowLane x
  let lo' := lo + n
  let hi' := if lo' < lo then highLane x + 1 else highLane x
  hi' ++ lo'

/-- CTRLD value (R102). -/
def execCtrld (value : Block) (s : State) : Result :=
  complete (s.setCtr (le128 value))

/-- CTRADD n (R103): the operand is checked before the counter. -/
def execCtradd (addend : Block) (s : State) : Result :=
  if upperZero addend then needCtr s fun x => complete (s.setCtr (add128 x (le64Low addend)))
  else rejected s .eOpnd

/-- CTRRD (R104). -/
def execCtrrd (s : State) : Result :=
  needCtr s fun x => complete (s.setRes (toLE x))

end Sys2Proof.Machine
end

