-- ==== Sys2Proof/Machine/Tweak.lean ====
section
/-! DEFINITION. The tweak block, the doubler and the meanings of TWLD, TWRD, TWGEN and TWDBL
(spec/42_tweak.md R110-R116). -/

namespace Sys2Proof.Machine

/-- `TweakBlock(x)` (R110): the counter most significant byte first. The only place the tweak block is defined
(90_conflicts.md C1; log entry 9). -/
def tweakBlock (x : Num128) : Block := toBE x

/-- The doubling constant: x^128 = x^7 + x^2 + x + 1 (R111, R5). -/
def reduction : Num128 := 0x87

/-- `Double(T)` (R111). -/
def double (T : Block) : Block :=
  let t := le128 T
  let shifted := t <<< 1
  toLE (if t[127] then shifted ^^^ reduction else shifted)

/-- The doubler on two 64-bit lanes, low then high (R112). -/
def doubleLanes (L H : Lane) : Lane × Lane :=
  let H' := (H <<< 1) ||| (if L[63] then 1 else 0)
  let L' := L <<< 1
  (if H[63] then L' ^^^ 0x87 else L', H')

/-- TWLD block (R113). -/
def execTwld (tweak : Block) (s : State) : Result :=
  complete (s.setTwk tweak)

/-- TWRD (R114). -/
def execTwrd (s : State) : Result :=
  needTwk s fun T => complete (s.setRes T)

/-- TWGEN (R115): always KS[1], always encrypts, the key checked before the counter; RES and CTR are untouched. -/
def execTwgen (s : State) : Result :=
  needKey s .t fun K => needCtr s fun x => complete (s.setTwk (cipher K (tweakBlock x)))

/-- TWDBL (R116). -/
def execTwdbl (s : State) : Result :=
  needTwk s fun T => complete (s.setTwk (double T))

end Sys2Proof.Machine
end

