-- ==== Sys2Proof/Machine/Unit.lean ====
section
/-! DEFINITION. The XTSN unit step: the meanings of XTSE and XTSD (spec/43_xtsn_unit.md R120, R121). -/

namespace Sys2Proof.Machine

/-- The unit step with the block transformation `f`: xor with the tweak, transform, xor with the same tweak. -/
def unitStep (f : Block → Block) (T B : Block) : Block := blockXor (f (blockXor B T)) T

/-- XTSE block (R120): KS[0] is checked before TWK, and the tweak is doubled after the unit. -/
def execXtse (block : Block) (s : State) : Result :=
  needKey s .d fun K => needTwk s fun T =>
    complete ((s.setRes (unitStep (cipher K) T block)).setTwk (double T))

/-- XTSD block (R121). -/
def execXtsd (block : Block) (s : State) : Result :=
  needKey s .d fun K => needTwk s fun T =>
    complete ((s.setRes (unitStep (invCipher K) T block)).setTwk (double T))

end Sys2Proof.Machine
end

