-- ==== Sys2Proof/Machine/Dispatch.lean ====
section
/-! DEFINITION. The meaning of each command: one arm per row of the opcode table (spec/30_encoding.md R52). -/

namespace Sys2Proof.Machine

def exec (i : Instr) (s : State) : Host.Outcome State Fault Refusal :=
  match i with
  | .nop => Sys2Proof.Machine.execNop s
  | .keyld slot key => Sys2Proof.Machine.execKeyld slot key s
  | .enc slot block => Sys2Proof.Machine.execEnc slot block s
  | .dec slot block => Sys2Proof.Machine.execDec slot block s
  | .ctrld value => Sys2Proof.Machine.execCtrld value s
  | .ctradd addend => Sys2Proof.Machine.execCtradd addend s
  | .ctrrd => Sys2Proof.Machine.execCtrrd s
  | .twld tweak => Sys2Proof.Machine.execTwld tweak s
  | .twrd => Sys2Proof.Machine.execTwrd s
  | .twgen => Sys2Proof.Machine.execTwgen s
  | .twdbl => Sys2Proof.Machine.execTwdbl s
  | .xtse block => Sys2Proof.Machine.execXtse block s
  | .xtsd block => Sys2Proof.Machine.execXtsd block s
  | .statrd => Sys2Proof.Machine.execStatrd s

end Sys2Proof.Machine
end

