-- ==== Sys2Proof/Machine/Command.lean ====
section
/-! DEFINITION. What the block does with a command and with the other events at its inputs
(spec/00_scope.md R11; 20_memory.md R45; 60_exceptions.md R142, R151; 70_reset_and_hazards.md R160, R161, R168). -/

namespace Sys2Proof.Machine

/-- Perform one command (R11): a command that decodes runs, any other is rejected with the decoder's code. -/
def perform (r : Request) (s : State) : Result :=
  match decode r with
  | .ok i => exec i s
  | .error c => rejected s c

/-- Serve the next event at the inputs. With none the block is idle and keeps its state (R151, R161). Reset abandons a
command in progress with no response and none of its effects (R160). A host that overlaps commands is refused (R168). -/
def serve (s : State) : Result :=
  match s.host with
  | [] => .next s
  | .command r :: rest => perform r (s.withHost rest)
  | .reset _ :: rest => .next (s.withHost rest).afterReset
  | .overlapped _ :: _ => .refused .overlappedCommand

end Sys2Proof.Machine
end

