-- ==== Sys2Proof/Machine/Step.lean ====
section
/-! DEFINITION. One step of the machine: one command per step (spec/00_scope.md R11, 20_memory.md R45). -/

namespace Sys2Proof.Machine

/-- One step: the block serves the next event at its inputs. -/
def step (s : State) : Host.Outcome State Fault Refusal := serve s

/-- The state in which the host's next event is the command whose bits are `w` (log entries 2 and 7). -/
def State.withFetchWord (s : State) (nbits w : Nat) : State :=
  s.withHost (.command (tableRequest nbits w) :: s.host)

end Sys2Proof.Machine
end

