-- ==== Sys2Proof/Machine/Assembler.lean ====
section
/-! DEFINITION. The assembler syntax and the pseudo-instructions (spec/30_encoding.md R57, R58; log entry 8). -/

namespace Sys2Proof.Machine

/-- Why an assembler refuses a line (R57). -/
inductive AsmError where
  /-- The name is no mnemonic of R52 and no pseudo-instruction of R58. -/
  | unknownMnemonic
  /-- `.K` is missing on KEYLD, ENC or DEC. -/
  | missingSelector
  /-- `.K` stands where it is not allowed, or is neither `.D` nor `.T`. -/
  | badSelector
  /-- The operands are missing, too many, or of the wrong form. -/
  | badOperand
  /-- A number is out of the range R57 gives. -/
  | outOfRange
  deriving DecidableEq, Repr

/-- An operand: a Block of 32 hexadecimal digits, or `#` and a number (R57). -/
inductive Operand where
  | block (B : Block)
  | number (n : Nat)
  deriving DecidableEq, Repr

/-- The value of a hexadecimal digit. -/
def hexDigit (c : Char) : Option Nat :=
  let n := c.toNat
  if 48 ≤ n ∧ n ≤ 57 then some (n - 48)
  else if 97 ≤ n ∧ n ≤ 102 then some (n - 87)
  else if 65 ≤ n ∧ n ≤ 70 then some (n - 55)
  else none

/-- The number that digits write in a base of at most 16, the accumulator being the digits already read. -/
def digitsFrom (base : Nat) (acc : Nat) : List Char → Option Nat
  | [] => some acc
  | c :: cs =>
    match hexDigit c with
    | some d => if d < base then digitsFrom base (acc * base + d) cs else none
    | none => none

/-- The number that a nonempty list of digits writes. -/
def digits (base : Nat) (cs : List Char) : Option Nat :=
  if cs = [] then none else digitsFrom base 0 cs

/-- An operand from its text (R57): `#` and a decimal or `0x` hexadecimal number, or 32 hexadecimal digits. -/
def parseOperand (cs : List Char) : Option Operand :=
  match cs with
  | '#' :: '0' :: 'x' :: rest => (digits 16 rest).map .number
  | '#' :: rest => (digits 10 rest).map .number
  | rest => if rest.length = 32 then (digits 16 rest).map fun n => .block (toBE (BitVec.ofNat 128 n)) else none

/-- The words of a line: separated by spaces and tabs, a comma a word of its own, ended by `;` (R57). `cur` is the word being
read, backwards. -/
def wordsFrom (cur : List Char) : List Char → List (List Char)
  | [] => if cur = [] then [] else [cur.reverse]
  | c :: cs =>
    let done := if cur = [] then [] else [cur.reverse]
    if c = ';' then done
    else if c = ' ' ∨ c = '\t' then done ++ wordsFrom [] cs
    else if c = ',' then done ++ [','] :: wordsFrom [] cs
    else wordsFrom (c :: cur) cs

/-- Whether a command takes `.K` (R57). -/
inductive Selector where
  | absent
  | given (slot : Slot)
  | unknown
  deriving DecidableEq, Repr

/-- The name and the selector of `MNEMONIC[.K]` (R57). -/
def splitName (w : List Char) : List Char × Selector :=
  match w.dropWhile (· ≠ '.') with
  | [] => (w, .absent)
  | ['.', 'D'] => (w.takeWhile (· ≠ '.'), .given .d)
  | ['.', 'T'] => (w.takeWhile (· ≠ '.'), .given .t)
  | _ => (w.takeWhile (· ≠ '.'), .unknown)

/-- A command with a selector and one Block operand (KEYLD, ENC, DEC). -/
def asmSelected (make : Slot → Block → Instr) (k : Selector) (ops : List Operand) : Except AsmError (List Instr) :=
  match k, ops with
  | .given slot, [.block B] => .ok [make slot B]
  | .given _, _ => .error .badOperand
  | .absent, _ => .error .missingSelector
  | .unknown, _ => .error .badSelector

/-- A line that takes no selector. -/
def asmPlain (k : Selector) (body : Except AsmError (List Instr)) : Except AsmError (List Instr) :=
  match k with
  | .absent => body
  | .given _ => .error .badSelector
  | .unknown => .error .badSelector

/-- No operand. -/
def asmNone (is : List Instr) (ops : List Operand) : Except AsmError (List Instr) :=
  if ops = [] then .ok is else .error .badOperand

/-- One Block operand. -/
def asmBlock (make : Block → Instr) (ops : List Operand) : Except AsmError (List Instr) :=
  match ops with
  | [.block B] => .ok [make B]
  | _ => .error .badOperand

/-- One number below `bound`, or one Block taken as the operand's bytes (CTRLD, CTRADD); `#n` is `toLE(n)`. -/
def asmNumber (bound : Nat) (make : Block → Instr) (ops : List Operand) : Except AsmError (List Instr) :=
  match ops with
  | [.block B] => .ok [make B]
  | [.number n] => if n < bound then .ok [make (toLE (BitVec.ofNat 128 n))] else .error .outOfRange
  | _ => .error .badOperand

/-- `SECTOR #n`: `CTRLD #n` then `TWGEN` (R58). -/
def asmSector (ops : List Operand) : Except AsmError (List Instr) :=
  match ops with
  | [.number n] =>
    if n < 2 ^ 128 then .ok [.ctrld (toLE (BitVec.ofNat 128 n)), .twgen] else .error .outOfRange
  | _ => .error .badOperand

/-- `TWSKIP #m`: `TWDBL` repeated m times (R58). -/
def asmTwskip (ops : List Operand) : Except AsmError (List Instr) :=
  match ops with
  | [.number m] => .ok (List.replicate m .twdbl)
  | _ => .error .badOperand

/-- `KEYS kd, kt`: `KEYLD.D kd` then `KEYLD.T kt` (R58). -/
def asmKeys (ops : List Operand) : Except AsmError (List Instr) :=
  match ops with
  | [.block kd, .block kt] => .ok [.keyld .d kd, .keyld .t kt]
  | _ => .error .badOperand

/-- `CTRADD #1`, the expansion of `CTRINC` (R58). -/
def ctrInc : Instr := .ctradd (toLE 1)

/-- The commands of a line whose name, selector and operands are given: the mnemonics of R52 and the pseudo-instructions of
R58. -/
def assembleNamed (name : List Char) (k : Selector) (ops : List Operand) : Except AsmError (List Instr) :=
  if name = ['N', 'O', 'P'] then asmPlain k (asmNone [.nop] ops)
  else if name = ['K', 'E', 'Y', 'L', 'D'] then asmSelected .keyld k ops
  else if name = ['E', 'N', 'C'] then asmSelected .enc k ops
  else if name = ['D', 'E', 'C'] then asmSelected .dec k ops
  else if name = ['C', 'T', 'R', 'L', 'D'] then asmPlain k (asmNumber (2 ^ 128) .ctrld ops)
  else if name = ['C', 'T', 'R', 'A', 'D', 'D'] then asmPlain k (asmNumber (2 ^ 64) .ctradd ops)
  else if name = ['C', 'T', 'R', 'R', 'D'] then asmPlain k (asmNone [.ctrrd] ops)
  else if name = ['T', 'W', 'L', 'D'] then asmPlain k (asmBlock .twld ops)
  else if name = ['T', 'W', 'R', 'D'] then asmPlain k (asmNone [.twrd] ops)
  else if name = ['T', 'W', 'G', 'E', 'N'] then asmPlain k (asmNone [.twgen] ops)
  else if name = ['T', 'W', 'D', 'B', 'L'] then asmPlain k (asmNone [.twdbl] ops)
  else if name = ['X', 'T', 'S', 'E'] then asmPlain k (asmBlock .xtse ops)
  else if name = ['X', 'T', 'S', 'D'] then asmPlain k (asmBlock .xtsd ops)
  else if name = ['S', 'T', 'A', 'T', 'R', 'D'] then asmPlain k (asmNone [.statrd] ops)
  else if name = ['C', 'T', 'R', 'I', 'N', 'C'] then asmPlain k (asmNone [ctrInc] ops)
  else if name = ['K', 'E', 'Y', 'S'] then asmPlain k (asmKeys ops)
  else if name = ['S', 'E', 'C', 'T', 'O', 'R'] then asmPlain k (asmSector ops)
  else if name = ['T', 'W', 'S', 'K', 'I', 'P'] then asmPlain k (asmTwskip ops)
  else if name = ['N', 'E', 'X', 'T', 'S', 'E', 'C', 'T', 'O', 'R'] then asmPlain k (asmNone [ctrInc, .twgen] ops)
  else .error .unknownMnemonic

/-- The operand texts of a line: words with single commas between them (R57, R58). -/
def operandWords : List (List Char) → Option (List (List Char))
  | [] => some []
  | [w] => some [w]
  | w :: [','] :: v :: rest => (operandWords (v :: rest)).map (w :: ·)
  | _ :: _ :: _ => none

/-- The commands that a line of assembly stands for; none for an empty line or a comment (R57, R58). -/
def assembleChars (line : List Char) : Except AsmError (List Instr) :=
  match wordsFrom [] line with
  | [] => .ok []
  | w :: rest =>
    let (name, k) := splitName w
    match (operandWords rest).bind (·.mapM parseOperand) with
    | some ops => assembleNamed name k ops
    | none => .error .badOperand

/-- A line of assembly as a string. -/
def assemble (line : String) : Except AsmError (List Instr) := assembleChars line.toList

/-- The hexadecimal digit of a number below 16. -/
def hexChar (n : Nat) : Char :=
  ['0', '1', '2', '3', '4', '5', '6', '7', '8', '9', 'a', 'b', 'c', 'd', 'e', 'f'].getD n '0'

/-- The lowest `k` hexadecimal digits of a number, most significant first. -/
def hexDigits : Nat → Nat → List Char
  | 0, _ => []
  | k + 1, n => hexDigits k (n / 16) ++ [hexChar (n % 16)]

/-- The listing form `CMD=<8 hex digits> OPND=<32 hex digits>` (R57). -/
def listing (r : Request) : List Char :=
  ['C', 'M', 'D', '='] ++ hexDigits 8 r.cmd.toNat ++ [' ', 'O', 'P', 'N', 'D', '='] ++
    hexDigits 32 (be128 r.opnd).toNat

end Sys2Proof.Machine
end

