-- ==== Sys2Proof/Machine/Streaming.lean ====
section
/-! DEFINITION. The host's part: the command sequence of a streaming call (spec/43_xtsn_unit.md R123-R126). The block
neither performs nor checks it; the host is modelled beside the block (log entry 10). -/

namespace Sys2Proof.Machine

/-- The direction of a call (R123). -/
inductive Direction where
  | encrypt
  | decrypt
  deriving DecidableEq, Repr

/-- The arguments of a call (R123); `sectorSize` and `skipBytes` are 64-bit numbers (00_scope.md R5). -/
structure Call where
  buffer       : List Byte
  direction    : Direction
  sectorOffset : Num128
  sectorSize   : BitVec 64
  skipBytes    : BitVec 64
  deriving DecidableEq, Repr

/-- The host's validation (R124): lengths are multiples of 16 and the sector size is not 0. -/
def Call.valid (c : Call) : Bool :=
  c.buffer.length % 16 == 0 && c.sectorSize.toNat % 16 == 0 && c.sectorSize != 0 && c.skipBytes.toNat % 16 == 0

/-- `buffer[pos .. pos+15]` (R123). -/
def unitAt (buffer : List Byte) (pos : Nat) : Block :=
  Vector.ofFn fun i => buffer.getD (pos + i.val) 0

/-- The 16-byte units of a buffer, in order. -/
def unitsOf (buffer : List Byte) : List Block :=
  (List.range (buffer.length / 16)).map fun j => unitAt buffer (16 * j)

/-- The bytes of units, in order. -/
def bytesOf (units : List Block) : List Byte := units.flatMap Vector.toList

/-- `U`: XTSE to encrypt, XTSD to decrypt (R123). -/
def unitCommand (direction : Direction) (unit : Block) : Instr :=
  match direction with
  | .encrypt => .xtse unit
  | .decrypt => .xtsd unit

/-- `CTRADD #n` (R57): the addend as a little-endian operand. -/
def addCommand (n : Nat) : Instr := .ctradd (toLE (BitVec.ofNat 128 n))

/-- FullSectors (R123): while units remain, derive a tweak, perform up to `perSector` units, advance the counter. The first
argument bounds the number of sectors. -/
def fullSectors (direction : Direction) (perSector : Nat) : Nat → List Block → List Instr
  | 0, _ => []
  | _ + 1, [] => []
  | n + 1, u :: us =>
    .twgen :: ((u :: us).take perSector).map (unitCommand direction) ++
      addCommand 1 :: fullSectors direction perSector n ((u :: us).drop perSector)

/-- The remainder of the skip within its sector, in bytes (R123). -/
def Call.remainder (c : Call) : Nat := c.skipBytes.toNat % c.sectorSize.toNat

/-- How many units the sector that the skip enters still has room for; 0 when the skip ends at a sector boundary. -/
def Call.partialUnits (c : Call) : Nat :=
  if c.remainder = 0 then 0 else (c.sectorSize.toNat - c.remainder) / 16

/-- PartialPrefix (R123). -/
def Call.partialCommands (c : Call) (units : List Block) : List Instr :=
  if c.skipBytes = 0 then []
  else
    addCommand (c.skipBytes.toNat / c.sectorSize.toNat) ::
      if c.remainder = 0 then []
      else
        .twgen :: List.replicate (c.remainder / 16) .twdbl ++
          (units.take c.partialUnits).map (unitCommand c.direction) ++ [addCommand 1]

/-- The commands of a call (R123): none for an empty buffer, which "short-circuits directly to Done". -/
def Call.commands (c : Call) : List Instr :=
  let units := unitsOf c.buffer
  if units = [] then []
  else
    .ctrld (toLE c.sectorOffset) :: c.partialCommands units ++
      fullSectors c.direction (c.sectorSize.toNat / 16) units.length (units.drop c.partialUnits)

/-- Whether a command is the unit step, whose result goes back into the buffer (R123). -/
def isUnit (i : Instr) : Bool :=
  match i with
  | .xtse _ => true
  | .xtsd _ => true
  | .nop => false
  | .keyld _ _ => false
  | .enc _ _ => false
  | .dec _ _ => false
  | .ctrld _ => false
  | .ctradd _ => false
  | .ctrrd => false
  | .twld _ => false
  | .twrd => false
  | .twgen => false
  | .twdbl => false
  | .statrd => false

/-- Issue commands one after another, each after the response to the one before (R168), and collect the results of the
units. A rejection abandons the whole sequence and nothing is returned (R125). -/
def runCommands : List Instr → State → Option (List Block × State)
  | [], s => some ([], s)
  | i :: rest, s =>
    match perform (encode i) s with
    | .next t =>
      if t.rsp = some .ok then
        (runCommands rest t).map fun (out, u) => (if isUnit i then t.res.toList ++ out else out, u)
      else none
    | .fault _ => none
    | .refused _ => none

/-- A call (R123-R125): the new buffer and the state after it, or nothing when validation fails or a command is rejected. -/
def Call.run (c : Call) (s : State) : Option (List Byte × State) :=
  if c.valid then (runCommands c.commands s).map fun (out, t) => (bytesOf out, t) else none

end Sys2Proof.Machine
end

