-- ==== Sys2Proof/Machine/Checks.lean ====
section
/-! DEFINITION. The order of the rejection checks, as spec/60_exceptions.md R142 writes it: one function of STATUS, CMD
and OPND. The meanings make the same checks where they read a register; that the two agree is a statement of the
certificate. -/

namespace Sys2Proof.Machine

/-- The assigned opcodes (30_encoding.md R52). -/
def assignedOpcodes : List Byte :=
  [0x00, 0x01, 0x02, 0x03, 0x10, 0x11, 0x12, 0x20, 0x21, 0x22, 0x23, 0x30, 0x31, 0xF0]

/-- The opcodes with a schedule selector: KEYLD, ENC, DEC (30_encoding.md R50). -/
def selectorOpcodes : List Byte := [0x01, 0x02, 0x03]

/-- `needs_key`: the slot whose schedule a command needs, by opcode and KSEL (R142). -/
def needsKey (opc : Byte) (ksel : BitVec 1) : Option Slot :=
  if opc = 0x02 ∨ opc = 0x03 then some (slotOf ksel)
  else if opc = 0x22 then some .t
  else if opc = 0x30 ∨ opc = 0x31 then some .d
  else none

/-- `STATUS.KsV(slot)` (R142, 10_state.md R27). -/
def State.keyValid (s : State) (slot : Slot) : Bool :=
  match slot with
  | .d => s.k0v
  | .t => s.k1v

/-- `check(S, CMD, OPND)` (R142): the first cause in the spec's order, `ok` if there is none. -/
def check (s : State) (r : Request) : Code :=
  let opc := opcOf r.cmd
  let ksel := kselOf r.cmd
  if opc ∉ assignedOpcodes then .eOpc
  else if rsvdOf r.cmd ≠ 0 ∨ (ksel = 1 ∧ opc ∉ selectorOpcodes) then .eRsvd
  else if opc = 0x11 ∧ upperZero r.opnd = false then .eOpnd
  else if (needsKey opc ksel).any (fun slot => !s.keyValid slot) then .eNokey
  else if opc ∈ ([0x11, 0x12, 0x22] : List Byte) ∧ s.cv = false then .eNoctr
  else if opc ∈ ([0x21, 0x23, 0x30, 0x31] : List Byte) ∧ s.tv = false then .eNotwk
  else .ok

end Sys2Proof.Machine
end

