-- ==== Sys2Proof/Safety.lean ====
section
/-! DEFINITION. What counts as a safe run, and the invariant of the machine's states. -/

namespace Sys2Proof.Machine

/-- No command has been rejected since reset: what a host program that is correct ends with (60_exceptions.md R143). -/
def State.noError (s : State) : Prop := s.err = false

/-- The state rejects with E_RSVD every request with opcode `opc` that has a bit of RSVD set, or KSEL = 1 where the opcode takes
no selector (30_encoding.md R53, R54). -/
def rejectsReserved (opc : Byte) (selector : Bool) (s : State) : Prop :=
  ∀ r : Request, opcOf r.cmd = opc → (rsvdOf r.cmd ≠ 0 ∨ (kselOf r.cmd = 1 ∧ selector = false)) →
    perform r s = .next (s.reject .eRsvd)

/-- The states that the block can be in. -/
structure State.Inv (s : State) : Prop where
  /-- ERR is 1 exactly when LASTERR holds a code (10_state.md R27). -/
  errorRecorded : s.err = true ↔ s.lastErr ≠ .ok
  /-- A schedule is the expansion of a key (10_state.md R21). -/
  expanded : ∀ slot K, s.key slot = some K → ∃ key, K = keyExpansion key
  /-- A rejection that was just answered is the one LASTERR records (60_exceptions.md R140). -/
  lastAnswer : ∀ c, s.rsp = some c → c ≠ .ok → s.lastErr = c
  /-- Until the first response after reset the block is as reset left it (10_state.md R31). -/
  untouched : s.rsp = none → s = s.afterReset

end Sys2Proof.Machine
end

