-- ==== Sys2Proof/Certificates/Slice0/Obligations.lean ====
section
/-! DEFINITION. The statements for the provers, from the numbered rules of spec/. Every statement about a command gives its
whole next state, so that it is also the command's frame: no field it does not name changes. It also says which words decode
to the command (any operand where OPND is ignored) and that its reserved bits are rejected. -/

open Sys2Proof Sys2Proof.Machine

/-! ### The step and the encoding -/

/-- 00_scope.md R11, 20_memory.md R45: a step at a host's command runs the decoded instruction, or rejects the request with the
decoder's code, in the state whose host list has moved past it; a command placed for the next step is the one it performs. -/
def Obligations.StepPerformsNextCommand : Prop :=
  ∀ (s : State) (r : Request) (rest : List Event), s.host = .command r :: rest →
    (∀ i, decode r = .ok i → step s = exec i (s.withHost rest)) ∧
    (∀ c, decode r = .error c → step s = .next ((s.withHost rest).reject c)) ∧
    (∀ nbits w, step (s.withFetchWord nbits w) = perform (tableRequest nbits w) s)

/-- 30_encoding.md R52: a few command words, written out from the table, and the commands they select. -/
def Obligations.WrittenWordsDecode : Prop :=
  ∀ B : Block,
    decode ⟨0x00000000, B⟩ = .ok .nop ∧ decode ⟨0x00000101, B⟩ = .ok (.keyld .t B) ∧
    decode ⟨0x00000002, B⟩ = .ok (.enc .d B) ∧ decode ⟨0x00000011, B⟩ = .ok (.ctradd B) ∧
    decode ⟨0x00000022, B⟩ = .ok .twgen ∧ decode ⟨0x00000031, B⟩ = .ok (.xtsd B) ∧
    decode ⟨0x000000F0, B⟩ = .ok .statrd

/-- 30_encoding.md R50, R52, R55: the requests that decode to an instruction are exactly its encodings: the CMD word of `encode`,
with the operand of `encode` where the instruction reads one and any operand where it does not. -/
def Obligations.DecodeInvertsEncode : Prop :=
  ∀ (r : Request) (i : Instr),
    decode r = .ok i ↔
      r.cmd = (encode i).cmd ∧ (readsOperand i = true → r.opnd = (encode i).opnd)

/-- 30_encoding.md R52: which CMD words select a command, by fields and as the list of the 17 legal values. -/
def Obligations.SeventeenLegalCommandWords : Prop :=
  ∀ (cmd : Word) (B : Block),
    ((∃ i, decode ⟨cmd, B⟩ = .ok i) ↔
      rsvdOf cmd = 0 ∧ opcOf cmd ∈ assignedOpcodes ∧ (kselOf cmd = 0 ∨ opcOf cmd ∈ selectorOpcodes)) ∧
    ((∃ i, decode ⟨cmd, B⟩ = .ok i) ↔
      cmd ∈ ([0x00000000, 0x00000001, 0x00000101, 0x00000002, 0x00000102, 0x00000003, 0x00000103, 0x00000010,
        0x00000011, 0x00000012, 0x00000020, 0x00000021, 0x00000022, 0x00000023, 0x00000030, 0x00000031,
        0x000000F0] : List Word))

/-- 30_encoding.md R54: every CMD value is decoded. An unassigned OPC is rejected with E_OPC whatever RSVD and KSEL hold; an
assigned one with a reserved bit set is rejected with E_RSVD; only 0x00000000 is NOP. -/
def Obligations.EveryCommandWordIsDecoded : Prop :=
  ∀ (s : State) (r : Request),
    (opcOf r.cmd ∉ assignedOpcodes → perform r s = .next (s.reject .eOpc)) ∧
    (opcOf r.cmd ∈ assignedOpcodes →
      (rsvdOf r.cmd ≠ 0 ∨ (kselOf r.cmd = 1 ∧ opcOf r.cmd ∉ selectorOpcodes)) → perform r s = .next (s.reject .eRsvd)) ∧
    (opcOf r.cmd ∈ assignedOpcodes → rsvdOf r.cmd = 0 → (kselOf r.cmd = 0 ∨ opcOf r.cmd ∈ selectorOpcodes) →
      ∃ i, decode r = .ok i ∧ perform r s = exec i s) ∧
    (decode r = .ok .nop ↔ r.cmd = 0x00000000)

/-! ### Rejections -/

/-- 60_exceptions.md R142: every command is answered with the first failing check in the spec's order (OK if none), and a
rejected one leaves exactly the rejection of that code. -/
def Obligations.FirstFailingCheckIsReported : Prop :=
  ∀ (s : State) (r : Request),
    ∃ t, perform r s = .next t ∧ t.rsp = some (check s r) ∧ (check s r ≠ .ok → t = s.reject (check s r))

/-- 60_exceptions.md R140: a command whose check answers a code writes ERR, LASTERR and the response, and nothing else; in
STATUS only bit 15 and bits 11:8 change, and the next command is served. -/
def Obligations.RejectionWritesOnlyStatus : Prop :=
  ∀ (s : State) (r : Request) (c : Code), check s r = c → c ≠ .ok →
    ∃ t, perform r s = .next t ∧ t = { s with err := true, lastErr := c, rsp := some c } ∧
      t.status = (s.status &&& 0xFFFFF0FF#32) ||| 0x00008000#32 ||| ((codeBits c).setWidth 32 <<< 8) ∧
      t.validBits = s.validBits ∧ t.response = some ⟨codeBits c, s.res⟩ ∧
      ∀ r', ∃ u, perform r' t = .next u

/-- 60_exceptions.md R143: no command clears ERR; a completed command changes neither ERR nor LASTERR; a rejected one records its
code, whatever LASTERR held; reset sets both to 0. -/
def Obligations.ErrorStatusIsSticky : Prop :=
  ∀ (s t : State) (r : Request), perform r s = .next t →
    (s.err = true → t.err = true) ∧
    (t.rsp = some .ok → t.err = s.err ∧ t.lastErr = s.lastErr) ∧
    (∀ c, t.rsp = some c → c ≠ .ok → t.err = true ∧ t.lastErr = c) ∧
    t.afterReset.err = false ∧ t.afterReset.lastErr = .ok

/-! ### State, reset and whole-machine rules -/

/-- 10_state.md R31: right after reset STATUS is 0x00000000 and every data register holds no value. -/
def Obligations.ResetLeavesNoValue : Prop :=
  State.reset.status = 0x00000000#32 ∧ State.reset.ks0 = none ∧ State.reset.ks1 = none ∧ State.reset.ctr = none ∧
    State.reset.twk = none ∧ State.reset.res = none ∧ State.reset.err = false ∧ State.reset.lastErr = .ok

/-- 70_reset_and_hazards.md R160: asserting reset in any state, with or without a command in progress, leaves the reset state;
the abandoned command gets no response and none of its effects, and what the host does next is untouched. Nothing else clears
ERR or LASTERR. That reset is an event with the abandoned command beside it is the model's form (log entry 4), and so is the
empty response field (log entry 3). -/
def Obligations.ResetAbandonsCommand : Prop :=
  (∀ (s : State) (a : Option Request) (rest : List Event), s.host = .reset a :: rest →
    ∃ t, step s = .next t ∧ t = { State.reset with host := rest } ∧ t.status = 0x00000000#32 ∧ t.response = none) ∧
  ∀ s t : State, step s = .next t →
    ((s.err = true ∧ t.err = false) ∨ (s.lastErr ≠ .ok ∧ t.lastErr = .ok)) → ∃ a rest, s.host = .reset a :: rest

/-- 10_state.md R21, R27, 60_exceptions.md R140: the invariant holds right after reset. -/
def Obligations.ResetMeetsInvariant : Prop := State.reset.Inv

/-- 10_state.md R21, R27, 60_exceptions.md R140: every step keeps the invariant: ERR agrees with LASTERR, every schedule is the
expansion of a key, a rejection just answered is recorded, and nothing is written before the first response. -/
def Obligations.StepKeepsInvariant : Prop :=
  ∀ s t : State, s.Inv → step s = .next t → t.Inv

/-- 10_state.md R27: the layout of STATUS, in every state: each field at its place, LASTERR at most 6, reserved bits 0. -/
def Obligations.StatusLayout : Prop :=
  ∀ s : State,
    s.status.getLsbD 0 = s.ks0.isSome ∧ s.status.getLsbD 1 = s.ks1.isSome ∧ s.status.getLsbD 2 = s.ctr.isSome ∧
    s.status.getLsbD 3 = s.twk.isSome ∧ s.status.getLsbD 4 = s.res.isSome ∧ s.status.getLsbD 15 = s.err ∧
    s.status.extractLsb' 8 4 = codeBits s.lastErr ∧ (codeBits s.lastErr).toNat ≤ 6 ∧
    s.status &&& 0xFFFF70E0#32 = 0

/-- 10_state.md R26: a valid bit is cleared only by reset. That the valid bit is the register holding a value, and that a reset is
an event of the host list, are the model's form (log entries 1, 2 and 4). -/
def Obligations.ValidBitsClearedOnlyByReset : Prop :=
  ∀ s t : State, (∀ a rest, s.host ≠ .reset a :: rest) → step s = .next t →
    (s.k0v = true → t.k0v = true) ∧ (s.k1v = true → t.k1v = true) ∧ (s.cv = true → t.cv = true) ∧
    (s.tv = true → t.tv = true) ∧ (s.rv = true → t.rv = true)

/-- 10_state.md R20, R21, R23, R25: only the commands the register table lists write a register; no command touches what the
host has yet to issue (the list of which is the model's form, log entry 2). -/
def Obligations.OnlyListedCommandsWrite : Prop :=
  ∀ (i : Instr) (s t : State), exec i s = .next t →
    (t.ks0 ≠ s.ks0 → ∃ key, i = .keyld .d key) ∧
    (t.ks1 ≠ s.ks1 → ∃ key, i = .keyld .t key) ∧
    (t.ctr ≠ s.ctr → (∃ B, i = .ctrld B) ∨ ∃ B, i = .ctradd B) ∧
    (t.twk ≠ s.twk → (∃ B, i = .twld B) ∨ i = .twgen ∨ i = .twdbl ∨ (∃ B, i = .xtse B) ∨ ∃ B, i = .xtsd B) ∧
    (t.res ≠ s.res → (∃ k B, i = .enc k B) ∨ (∃ k B, i = .dec k B) ∨ i = .ctrrd ∨ i = .twrd ∨ (∃ B, i = .xtse B) ∨
      (∃ B, i = .xtsd B) ∨ i = .statrd) ∧
    t.host = s.host

/-- 60_exceptions.md R146: a command that runs neither the cipher nor its inverse shows nothing of a loaded schedule. Two states
that differ only in the contents of loaded schedules answer it alike and agree again on everything but the schedules. -/
def Obligations.SchedulesAreWriteOnly : Prop :=
  ∀ (i : Instr) (s : State) (K0 K1 : Option Schedule),
    (∀ k B, i ≠ .enc k B) → (∀ k B, i ≠ .dec k B) → i ≠ .twgen → (∀ B, i ≠ .xtse B) → (∀ B, i ≠ .xtsd B) →
    K0.isSome = s.ks0.isSome → K1.isSome = s.ks1.isSome →
    ∃ t t', exec i s = .next t ∧ exec i { s with ks0 := K0, ks1 := K1 } = .next t' ∧
      t'.ctr = t.ctr ∧ t'.twk = t.twk ∧ t'.res = t.res ∧ t'.rsp = t.rsp ∧ t'.status = t.status

/-- 70_reset_and_hazards.md R167 ("every issued command eventually responds"), 30_encoding.md R56, 00_scope.md R11: every issued
command gets its response. That it comes in the one step that serves the command, that the host list has then moved past it, and
that the response is read from a field are the model's form (log entries 6, 2 and 3). -/
def Obligations.EveryCommandIsAnswered : Prop :=
  ∀ (s : State) (r : Request) (rest : List Event), s.host = .command r :: rest →
    ∃ t c, step s = .next t ∧ t.rsp = some c ∧ t.response = some ⟨codeBits c, t.res⟩ ∧ t.host = rest

/-- 60_exceptions.md R151, 70_reset_and_hazards.md R161 (log entry 2): with nothing at its inputs the block is idle and keeps
its state. -/
def Obligations.IdleBlockKeepsState : Prop :=
  ∀ s : State, s.host = [] → step s = .next s

/-- 70_reset_and_hazards.md R168: a host that issues a command before the previous response is refused, in every state. The event
that stands for it is the model's form (log entries 2 and 5). -/
def Obligations.OverlappingHostIsRefused : Prop :=
  ∀ (s : State) (r : Request) (rest : List Event), s.host = .overlapped r :: rest → step s = .refused .overlappedCommand

/-! ### AES -/

/-- 40_aes_core.md R60: `mul` is the product of the field: bilinear, with 1 neutral and `xtime` the product by x. -/
def Obligations.FieldProduct : Prop :=
  ∀ a b c : Byte,
    gfMul a 1 = a ∧ gfMul 1 a = a ∧ gfMul 2 a = xtime a ∧ gfMul 3 a = xtime a ^^^ a ∧
    gfMul a (xtime b) = xtime (gfMul a b) ∧
    gfMul a (b ^^^ c) = gfMul a b ^^^ gfMul a c ∧ gfMul (a ^^^ b) c = gfMul a c ^^^ gfMul b c

/-- 40_aes_core.md R61: the S-box table is the multiplicative inverse followed by the affine map. -/
def Obligations.SboxIsAffineInverse : Prop :=
  ∀ a : Byte, ∃ b : Byte, (a = 0 → b = 0) ∧ (a ≠ 0 → gfMul a b = 1) ∧ sbox a = sboxAffine b

/-- 40_aes_core.md R62: the two tables are inverse to each other. -/
def Obligations.InverseSboxInverts : Prop :=
  ∀ a : Byte, invSbox (sbox a) = a ∧ sbox (invSbox a) = a

/-- 40_aes_core.md R63: `Rcon[1] = 1`, each next constant is the product by x, and the constant is the first byte of its word. -/
def Obligations.RoundConstants : Prop :=
  rcon 1 = 0x01 ∧ (∀ j, 1 ≤ j → j < 10 → rcon (j + 1) = xtime (rcon j)) ∧ ∀ j, rconWord j = #v[rcon j, 0, 0, 0]

/-- 40_aes_core.md R65, R66: the words of an expanded schedule obey the loop of KeyExpansion, from the words of the key. -/
def Obligations.KeyExpansionRecurrence : Prop :=
  ∀ key : Block,
    (keyExpansion key)[0] = key ∧
    (∀ (r : Fin 11) (c j : Fin 4),
      (scheduleWord (keyExpansion key) ⟨4 * r.val + c.val, by omega⟩)[j] =
        (keyExpansion key)[r][4 * c.val + j.val]) ∧
    ∀ (n : Nat) (h : n < 40),
      scheduleWord (keyExpansion key) ⟨n + 4, by omega⟩ =
        wordXor (scheduleWord (keyExpansion key) ⟨n, by omega⟩)
          (if (n + 4) % 4 = 0 then
            wordXor (subWord (rotWord (scheduleWord (keyExpansion key) ⟨n + 3, by omega⟩))) (rconWord ((n + 4) / 4))
          else scheduleWord (keyExpansion key) ⟨n + 3, by omega⟩)

/-- 40_aes_core.md R68, R69, R71, R73, R74: the byte-wise transformations and the row rotations, by bytes of the Block; the two
rotations are inverse to each other. -/
def Obligations.RoundTransformsByByte : Prop :=
  ∀ (K : Schedule) (k : Fin 11) (B : Block),
    (∀ (i : Nat) (h : i < 16),
      (subBytes B)[i] = sbox B[i] ∧ (invSubBytes B)[i] = invSbox B[i] ∧
      (addRoundKey K k B)[i] = B[i] ^^^ K[k][i]) ∧
    (∀ r c : Fin 4,
      (shiftRows B)[r.val + 4 * c.val] = B[r.val + 4 * ((c.val + r.val) % 4)] ∧
      (invShiftRows B)[r.val + 4 * ((c.val + r.val) % 4)] = B[r.val + 4 * c.val]) ∧
    invShiftRows (shiftRows B) = B ∧ shiftRows (invShiftRows B) = B

/-- 40_aes_core.md R70: MixColumns, column by column: {02} is `xtime` and {03} is `xtime` xor the byte (R60). -/
def Obligations.MixColumnsByColumn : Prop :=
  ∀ (B : Block) (c : Fin 4) (a0 a1 a2 a3 : Byte), wordOf B c = #v[a0, a1, a2, a3] →
    wordOf (mixColumns B) c =
      #v[xtime a0 ^^^ (xtime a1 ^^^ a1) ^^^ a2 ^^^ a3, a0 ^^^ xtime a1 ^^^ (xtime a2 ^^^ a2) ^^^ a3,
        a0 ^^^ a1 ^^^ xtime a2 ^^^ (xtime a3 ^^^ a3), (xtime a0 ^^^ a0) ^^^ a1 ^^^ a2 ^^^ xtime a3]

/-- 40_aes_core.md R75: InvMixColumns, column by column, and that it inverts MixColumns. -/
def Obligations.InvMixColumnsInverts : Prop :=
  (∀ B : Block, invMixColumns (mixColumns B) = B) ∧
  ∀ (B : Block) (c : Fin 4) (a0 a1 a2 a3 : Byte), wordOf B c = #v[a0, a1, a2, a3] →
    wordOf (invMixColumns B) c =
      #v[gfMul 0x0e a0 ^^^ gfMul 0x0b a1 ^^^ gfMul 0x0d a2 ^^^ gfMul 0x09 a3,
        gfMul 0x09 a0 ^^^ gfMul 0x0e a1 ^^^ gfMul 0x0b a2 ^^^ gfMul 0x0d a3,
        gfMul 0x0d a0 ^^^ gfMul 0x09 a1 ^^^ gfMul 0x0e a2 ^^^ gfMul 0x0b a3,
        gfMul 0x0b a0 ^^^ gfMul 0x0d a1 ^^^ gfMul 0x09 a2 ^^^ gfMul 0x0e a3]

/-- 40_aes_core.md R77: under every schedule the cipher and the inverse cipher invert each other, so each is a bijection. -/
def Obligations.CipherInversion : Prop :=
  ∀ (K : Schedule) (B : Block), invCipher K (cipher K B) = B ∧ cipher K (invCipher K B) = B

/-- 40_aes_core.md R79: KEYLD loads the slot it selects and its valid bit, and nothing else. -/
def Obligations.KeyldLoadsOneSlot : Prop :=
  ∀ (key : Block) (s : State),
    (∃ t, exec (.keyld .d key) s = .next t ∧ t = { s with ks0 := some (keyExpansion key), rsp := some .ok } ∧
      t.status = s.status ||| 0x00000001#32) ∧
    (∃ t, exec (.keyld .t key) s = .next t ∧ t = { s with ks1 := some (keyExpansion key), rsp := some .ok } ∧
      t.status = s.status ||| 0x00000002#32) ∧
    decode ⟨0x00000001, key⟩ = .ok (.keyld .d key) ∧ decode ⟨0x00000101, key⟩ = .ok (.keyld .t key) ∧
    rejectsReserved 0x01 true s

/-- 40_aes_core.md R80: ENC writes the cipher of its operand to RES, or is rejected with E_NOKEY when the selected slot was never
loaded. -/
def Obligations.EncWritesCipher : Prop :=
  ∀ (slot : Slot) (block : Block) (s : State),
    (∀ K, s.key slot = some K →
      ∃ t, exec (.enc slot block) s = .next t ∧ t = { s with res := some (cipher K block), rsp := some .ok } ∧
        t.status = s.status ||| 0x00000010#32) ∧
    (s.key slot = none → exec (.enc slot block) s = .next (s.reject .eNokey)) ∧
    decode ⟨0x00000002, block⟩ = .ok (.enc .d block) ∧ decode ⟨0x00000102, block⟩ = .ok (.enc .t block) ∧
    rejectsReserved 0x02 true s

/-- 40_aes_core.md R81: DEC writes the inverse cipher of its operand to RES, or is rejected with E_NOKEY. -/
def Obligations.DecWritesInverseCipher : Prop :=
  ∀ (slot : Slot) (block : Block) (s : State),
    (∀ K, s.key slot = some K →
      ∃ t, exec (.dec slot block) s = .next t ∧ t = { s with res := some (invCipher K block), rsp := some .ok } ∧
        t.status = s.status ||| 0x00000010#32) ∧
    (s.key slot = none → exec (.dec slot block) s = .next (s.reject .eNokey)) ∧
    decode ⟨0x00000003, block⟩ = .ok (.dec .d block) ∧ decode ⟨0x00000103, block⟩ = .ok (.dec .t block) ∧
    rejectsReserved 0x03 true s

/-! ### Counter -/

/-- 41_counter.md R101: the adder with its lanes is addition modulo 2^128. -/
def Obligations.AdderIsAddition : Prop :=
  ∀ (x : Num128) (n : Lane), add128 x n = x + n.setWidth 128

/-- 41_counter.md R102: CTRLD loads the little-endian number of its operand. -/
def Obligations.CtrldLoadsCounter : Prop :=
  ∀ (value : Block) (s : State),
    (∃ t, exec (.ctrld value) s = .next t ∧ t = { s with ctr := some (le128 value), rsp := some .ok } ∧
      t.status = s.status ||| 0x00000004#32) ∧
    decode ⟨0x00000010, value⟩ = .ok (.ctrld value) ∧ rejectsReserved 0x10 false s

/-- 41_counter.md R103: CTRADD adds its 64-bit addend and leaves STATUS; an operand with a nonzero upper byte is rejected with
E_OPND before the counter is looked at, and a counter never loaded with E_NOCTR; an addend of 0 keeps the counter, and the
largest counter plus 1 is 0. -/
def Obligations.CtraddAddsWithCarry : Prop :=
  ∀ (addend : Block) (s : State),
    ((∀ (i : Nat) (_ : i < 16), 8 ≤ i → addend[i] = 0) →
      (∀ x, s.ctr = some x →
        ∃ t, exec (.ctradd addend) s = .next t ∧
          t = { s with ctr := some (add128 x (le64Low addend)), rsp := some .ok } ∧ t.status = s.status ∧
          (le64Low addend = 0 → t.ctr = some x) ∧
          (le64Low addend = 1 → x = BitVec.allOnes 128 → t.ctr = some 0)) ∧
      (s.ctr = none → exec (.ctradd addend) s = .next (s.reject .eNoctr))) ∧
    ((∃ (i : Nat) (_ : i < 16), 8 ≤ i ∧ addend[i] ≠ 0) → exec (.ctradd addend) s = .next (s.reject .eOpnd)) ∧
    decode ⟨0x00000011, addend⟩ = .ok (.ctradd addend) ∧ rejectsReserved 0x11 false s

/-- 41_counter.md R104: CTRRD writes the counter, little-endian, to RES, or is rejected with E_NOCTR; right after a CTRLD it
returns the operand of that CTRLD. -/
def Obligations.CtrrdReadsCounter : Prop :=
  ∀ s : State,
    (∀ x, s.ctr = some x →
      ∃ t, exec .ctrrd s = .next t ∧ t = { s with res := some (toLE x), rsp := some .ok } ∧
        t.status = s.status ||| 0x00000010#32) ∧
    (s.ctr = none → exec .ctrrd s = .next (s.reject .eNoctr)) ∧
    (∀ value u, exec (.ctrld value) s = .next u → ∃ t, exec .ctrrd u = .next t ∧ t.res = some value) ∧
    (∀ B, decode ⟨0x00000012, B⟩ = .ok .ctrrd) ∧ rejectsReserved 0x12 false s

/-! ### Tweak -/

/-- 42_tweak.md R110: the tweak block holds the high lane, then the low lane, each most significant byte first. -/
def Obligations.TweakBlockBytes : Prop :=
  ∀ (x : Num128) (i : Nat) (h : i < 8),
    (tweakBlock x)[i] = (x.extractLsb' 64 64).extractLsb' (8 * (7 - i)) 8 ∧
    (tweakBlock x)[8 + i] = (x.extractLsb' 0 64).extractLsb' (8 * (7 - i)) 8 ∧
    be128 (tweakBlock x) = x

/-- 42_tweak.md R111: Double shifts the little-endian number left by one and, when bit 127 was set, flips bits 0, 1, 2 and 7
(x^128 = x^7 + x^2 + x + 1). -/
def Obligations.DoubleMultipliesByX : Prop :=
  ∀ (T : Block) (k : Nat), k < 128 →
    (le128 (double T)).getLsbD k =
      ((decide (1 ≤ k) && (le128 T).getLsbD (k - 1)) ^^
        ((le128 T).getLsbD 127 && (k == 0 || k == 1 || k == 2 || k == 7)))

/-- 42_tweak.md R112: the doubler on two 64-bit lanes is the same function. -/
def Obligations.DoubleByLanes : Prop :=
  ∀ T : Block,
    le64Low (double T) = (doubleLanes (le64Low T) (le64High T)).1 ∧
    le64High (double T) = (doubleLanes (le64Low T) (le64High T)).2

/-- 42_tweak.md R113: TWLD loads the tweak register with its operand. -/
def Obligations.TwldLoadsTweak : Prop :=
  ∀ (tweak : Block) (s : State),
    (∃ t, exec (.twld tweak) s = .next t ∧ t = { s with twk := some tweak, rsp := some .ok } ∧
      t.status = s.status ||| 0x00000008#32) ∧
    decode ⟨0x00000020, tweak⟩ = .ok (.twld tweak) ∧ rejectsReserved 0x20 false s

/-- 42_tweak.md R114: TWRD copies the tweak to RES, or is rejected with E_NOTWK. -/
def Obligations.TwrdReadsTweak : Prop :=
  ∀ s : State,
    (∀ T, s.twk = some T →
      ∃ t, exec .twrd s = .next t ∧ t = { s with res := some T, rsp := some .ok } ∧ t.status = s.status ||| 0x00000010#32) ∧
    (s.twk = none → exec .twrd s = .next (s.reject .eNotwk)) ∧
    (∀ B, decode ⟨0x00000021, B⟩ = .ok .twrd) ∧ rejectsReserved 0x21 false s

/-- 42_tweak.md R115: TWGEN encrypts the tweak block of the counter under KS[1] into TWK, leaving RES and CTR; without KS[1] it
is rejected with E_NOKEY, and with KS[1] but no counter with E_NOCTR. -/
def Obligations.TwgenDerivesTweak : Prop :=
  ∀ s : State,
    (∀ K x, s.ks1 = some K → s.ctr = some x →
      ∃ t, exec .twgen s = .next t ∧ t = { s with twk := some (cipher K (tweakBlock x)), rsp := some .ok } ∧
        t.status = s.status ||| 0x00000008#32) ∧
    (s.ks1 = none → exec .twgen s = .next (s.reject .eNokey)) ∧
    (∀ K, s.ks1 = some K → s.ctr = none → exec .twgen s = .next (s.reject .eNoctr)) ∧
    (∀ B, decode ⟨0x00000022, B⟩ = .ok .twgen) ∧ rejectsReserved 0x22 false s

/-- 42_tweak.md R116: TWDBL doubles the tweak and leaves STATUS, or is rejected with E_NOTWK; 0 stays 0, and bit 127 alone
becomes 0x87 in byte 0. -/
def Obligations.TwdblDoublesTweak : Prop :=
  ∀ s : State,
    (∀ T, s.twk = some T →
      ∃ t, exec .twdbl s = .next t ∧ t = { s with twk := some (double T), rsp := some .ok } ∧ t.status = s.status) ∧
    (s.twk = none → exec .twdbl s = .next (s.reject .eNotwk)) ∧
    double zeroBlock = zeroBlock ∧
    double (toBE 0x00000000000000000000000000000080) = toBE 0x87000000000000000000000000000000 ∧
    double (toBE 0xffffffffffffffffffffffffffffffff) = toBE 0x79ffffffffffffffffffffffffffffff ∧
    (∀ B, decode ⟨0x00000023, B⟩ = .ok .twdbl) ∧ rejectsReserved 0x23 false s

/-! ### The XTSN unit -/

/-- 43_xtsn_unit.md R120: XTSE writes the unit to RES with the tweak as it stood before, for both exclusive ors, and doubles the
tweak; it is rejected with E_NOKEY without KS[0], else with E_NOTWK without a tweak, and then doubles nothing. -/
def Obligations.XtseEncryptsUnit : Prop :=
  ∀ (block : Block) (s : State),
    (∀ K T, s.ks0 = some K → s.twk = some T →
      ∃ t, exec (.xtse block) s = .next t ∧
        t = { s with res := some (blockXor (cipher K (blockXor block T)) T), twk := some (double T), rsp := some .ok } ∧
        t.status = s.status ||| 0x00000010#32) ∧
    (s.ks0 = none → exec (.xtse block) s = .next (s.reject .eNokey)) ∧
    (∀ K, s.ks0 = some K → s.twk = none → exec (.xtse block) s = .next (s.reject .eNotwk)) ∧
    decode ⟨0x00000030, block⟩ = .ok (.xtse block) ∧ rejectsReserved 0x30 false s

/-- 43_xtsn_unit.md R121: XTSD, the same with the inverse cipher and the same advance of the tweak. -/
def Obligations.XtsdDecryptsUnit : Prop :=
  ∀ (block : Block) (s : State),
    (∀ K T, s.ks0 = some K → s.twk = some T →
      ∃ t, exec (.xtsd block) s = .next t ∧
        t = { s with res := some (blockXor (invCipher K (blockXor block T)) T), twk := some (double T), rsp := some .ok } ∧
        t.status = s.status ||| 0x00000010#32) ∧
    (s.ks0 = none → exec (.xtsd block) s = .next (s.reject .eNokey)) ∧
    (∀ K, s.ks0 = some K → s.twk = none → exec (.xtsd block) s = .next (s.reject .eNotwk)) ∧
    decode ⟨0x00000031, block⟩ = .ok (.xtsd block) ∧ rejectsReserved 0x31 false s

/-- 43_xtsn_unit.md R122: from equal KS[0] and TWK, XTSD of the result of XTSE gives the unit back, and both leave the same
tweak. -/
def Obligations.UnitInversion : Prop :=
  ∀ (block : Block) (s u : State) (K : Schedule) (T : Block),
    s.ks0 = some K → u.ks0 = some K → s.twk = some T → u.twk = some T →
    ∃ t unit v, exec (.xtse block) s = .next t ∧ t.res = some unit ∧ exec (.xtsd unit) u = .next v ∧
      v.res = some block ∧ t.twk = some (double T) ∧ v.twk = some (double T)

/-! ### Control -/

/-- 44_control.md R130: NOP changes nothing but the response, which still carries RES. -/
def Obligations.NopOnlyResponds : Prop :=
  ∀ s : State,
    (∃ t, exec .nop s = .next t ∧ t = { s with rsp := some .ok } ∧ t.status = s.status ∧ t.response = some ⟨0, s.res⟩) ∧
    (∀ B, decode ⟨0x00000000, B⟩ = .ok .nop) ∧ rejectsReserved 0x00 false s

/-- 44_control.md R131: STATRD writes STATUS as it stood before, little-endian, to RES, and RV; it is never rejected, and changes
neither ERR nor LASTERR. -/
def Obligations.StatrdReadsStatusBefore : Prop :=
  ∀ s : State,
    (∃ t B, exec .statrd s = .next t ∧ t = { s with res := some B, rsp := some .ok } ∧
      B[0] = s.status.extractLsb' 0 8 ∧ B[1] = s.status.extractLsb' 8 8 ∧
      (∀ (i : Nat) (_ : i < 16), 2 ≤ i → B[i] = 0) ∧ t.status = s.status ||| 0x00000010#32) ∧
    (∀ B, decode ⟨0x000000F0, B⟩ = .ok .statrd) ∧ rejectsReserved 0xF0 false s

/-! ### Sequences of commands -/

/-- 70_reset_and_hazards.md R166: the counter and the tweak that CTRRD and TWRD save are restored, in any state, by CTRLD and TWLD
of what they returned. -/
def Obligations.SavedStreamIsRestored : Prop :=
  ∀ (s v : State) (x : Num128) (T : Block), s.ctr = some x → s.twk = some T →
    ∃ t u w z C D, exec .ctrrd s = .next t ∧ t.res = some C ∧ exec .twrd t = .next u ∧ u.res = some D ∧
      exec (.ctrld C) v = .next w ∧ exec (.twld D) w = .next z ∧
      z = { v with ctr := some x, twk := some T, rsp := some .ok }

/-- 43_xtsn_unit.md R126: performing the units of a sector from unit j on, after j doublings, gives the results from unit j on and
the same tweak at the end. -/
def Obligations.RandomAccessByDoubling : Prop :=
  ∀ (direction : Direction) (units out : List Block) (j : Nat) (s t : State),
    runCommands (.twgen :: units.map (unitCommand direction)) s = some (out, t) → j ≤ units.length →
    ∃ t', runCommands (.twgen :: List.replicate j .twdbl ++ (units.drop j).map (unitCommand direction)) s =
        some (out.drop j, t') ∧ t'.twk = t.twk

/-- 43_xtsn_unit.md R123, R125: with both keys loaded no command of a valid call is rejected, and the result is as long as the
buffer. -/
def Obligations.ValidCallCompletes : Prop :=
  ∀ (c : Call) (s : State) (K0 K1 : Schedule), c.valid = true → s.ks0 = some K0 → s.ks1 = some K1 →
    ∃ out t, c.run s = some (out, t) ∧ out.length = c.buffer.length ∧ t.ks0 = some K0 ∧ t.ks1 = some K1 ∧
      t.err = s.err ∧ t.lastErr = s.lastErr

/-- 43_xtsn_unit.md R122, R123: encrypting any buffer and decrypting the result with the same keys, offset, sector size and skip
gives the buffer back. -/
def Obligations.CallRoundTrip : Prop :=
  ∀ (c : Call) (s u : State) (K0 K1 : Schedule), c.valid = true → c.direction = .encrypt →
    s.ks0 = some K0 → s.ks1 = some K1 → u.ks0 = some K0 → u.ks1 = some K1 →
    ∃ out t v, c.run s = some (out, t) ∧
      ({ c with direction := .decrypt, buffer := out } : Call).run u = some (c.buffer, v)

/-! ### Assembler -/

/-- 30_encoding.md R57: `CTRADD #n` assembles to a well-formed command that adds n, exactly when n is below 2^64, and
`CTRLD #n` to one that loads n, exactly when n is below 2^128. -/
def Obligations.NumberOperandsAssemble : Prop :=
  ∀ n : Nat,
    (n < 2 ^ 64 → ∃ i, assembleNamed ['C', 'T', 'R', 'A', 'D', 'D'] .absent [.number n] = .ok [i] ∧ i.wellFormed = true ∧
      ∀ s x, s.ctr = some x → exec i s = .next { s with ctr := some (x + BitVec.ofNat 128 n), rsp := some .ok }) ∧
    (2 ^ 64 ≤ n → assembleNamed ['C', 'T', 'R', 'A', 'D', 'D'] .absent [.number n] = .error .outOfRange) ∧
    (n < 2 ^ 128 → ∃ i, assembleNamed ['C', 'T', 'R', 'L', 'D'] .absent [.number n] = .ok [i] ∧
      ∀ s, exec i s = .next { s with ctr := some (BitVec.ofNat 128 n), rsp := some .ok }) ∧
    (2 ^ 128 ≤ n → assembleNamed ['C', 'T', 'R', 'L', 'D'] .absent [.number n] = .error .outOfRange)

/-- 30_encoding.md R58: what the pseudo-instructions expand to. -/
def Obligations.PseudoInstructionsExpand : Prop :=
  ∀ (kd kt : Block) (n m : Nat), n < 2 ^ 128 →
    assembleNamed ['C', 'T', 'R', 'I', 'N', 'C'] .absent [] = .ok [.ctradd (toLE 1)] ∧
    assembleNamed ['K', 'E', 'Y', 'S'] .absent [.block kd, .block kt] = .ok [.keyld .d kd, .keyld .t kt] ∧
    assembleNamed ['S', 'E', 'C', 'T', 'O', 'R'] .absent [.number n] = .ok [.ctrld (toLE (BitVec.ofNat 128 n)), .twgen] ∧
    assembleNamed ['T', 'W', 'S', 'K', 'I', 'P'] .absent [.number m] = .ok (List.replicate m .twdbl) ∧
    assembleNamed ['N', 'E', 'X', 'T', 'S', 'E', 'C', 'T', 'O', 'R'] .absent [] = .ok [.ctradd (toLE 1), .twgen]
end

