-- ==== Sys2Proof/Config.lean ====
section
/-! DEFINITION. What the spec leaves to the implementation (spec/00_scope.md R5, 70_reset_and_hazards.md R167).
The fixed parameters of R5 (Nk, Nb, Nr, the schedule size, the widths) are the types of Word.lean and the
definitions of Machine/; the only OPEN parameter is the time a command takes. -/

namespace Sys2Proof

/-- `LATENCY(op)`: the time from issuing a command with opcode `opc` to its response (R5, R167). The spec leaves
it OPEN and makes no rule depend on it, so it has no body and no definition of the model reads it (log entry 6). -/
opaque Config.latency (opc : Byte) : Nat

end Sys2Proof
end

