-- ==== Sys2Proof/Laws/Operands.lean ====
section
/-! SUPPORT. Bytes of numbers, numbers of Blocks, and exclusive or (spec/00_scope.md R8, R9). -/

namespace Sys2Proof.Machine

@[simp] theorem toLE_getElem (x : Num128) (i : Nat) (h : i < 16) :
    (toLE x)[i] = x.extractLsb' (8 * i) 8 := by
  simp [toLE]

@[simp] theorem toBE_getElem (x : Num128) (i : Nat) (h : i < 16) :
    (toBE x)[i] = x.extractLsb' (8 * (15 - i)) 8 := by
  simp [toBE]

@[simp] theorem blockXor_getElem (A B : Block) (i : Nat) (h : i < 16) :
    (blockXor A B)[i] = A[i] ^^^ B[i] := by
  simp [blockXor]

/-- Exclusive or with the same Block twice is the identity. -/
@[simp] theorem blockXor_cancel (A B : Block) : blockXor (blockXor A B) B = A := by
  apply Vector.ext
  intro i h
  simp

/-- Bit `r` of byte `q` of a Block is bit `8q + r` of its little-endian number. -/
theorem le128_getLsbD (B : Block) (q r : Nat) (hq : q < 16) (hr : r < 8) :
    (le128 B).getLsbD (8 * q + r) = B[q].getLsbD r := by
  simp only [le128, BitVec.getLsbD_append]
  interval_cases q <;> interval_cases r <;> rfl

/-- Bit `r` of byte `q` of a Block is bit `8(15 - q) + r` of its big-endian number. -/
theorem be128_getLsbD (B : Block) (q r : Nat) (hq : q < 16) (hr : r < 8) :
    (be128 B).getLsbD (8 * (15 - q) + r) = B[q].getLsbD r := by
  simp only [be128, BitVec.getLsbD_append]
  interval_cases q <;> interval_cases r <;> rfl

/-- `toLE` is the inverse of `LE128`. -/
@[simp] theorem toLE_le128 (B : Block) : toLE (le128 B) = B := by
  apply Vector.ext
  intro q hq
  apply BitVec.eq_of_getLsbD_eq
  intro r hr
  simp [hr, le128_getLsbD B q r hq hr]

/-- `LE128` is the inverse of `toLE`. -/
@[simp] theorem le128_toLE (x : Num128) : le128 (toLE x) = x := by
  apply BitVec.eq_of_getLsbD_eq
  intro k hk
  have hr : k % 8 < 8 := Nat.mod_lt _ (by decide)
  have h := le128_getLsbD (toLE x) (k / 8) (k % 8) (by omega) hr
  rw [Nat.div_add_mod] at h
  rw [h]
  simp [hr, Nat.div_add_mod]

/-- `toBE` is the inverse of `BE128`. -/
@[simp] theorem toBE_be128 (B : Block) : toBE (be128 B) = B := by
  apply Vector.ext
  intro q hq
  apply BitVec.eq_of_getLsbD_eq
  intro r hr
  simp [hr, be128_getLsbD B q r hq hr]

/-- `toBE(x)` is `toLE(x)` with its sixteen bytes in reverse order (R8). -/
theorem toBE_eq_reverse (x : Num128) : toBE x = (toLE x).reverse := by
  apply Vector.ext
  intro i h
  simp

end Sys2Proof.Machine
end

