-- ==== Sys2Proof/Laws/Aes.lean ====
section
/-! SUPPORT. The state array of the cipher, entry by entry (spec/40_aes_core.md R67), and the steps of key expansion. -/

namespace Sys2Proof.Machine

/-- The entry of the Block of a state array. -/
@[simp] theorem cell_ofCells (f : Fin 4 → Fin 4 → Byte) (r c : Fin 4) : cell (ofCells f) r c = f r c := by
  have h4 : (r.val + 4 * c.val) % 4 = r.val := by omega
  have h5 : (r.val + 4 * c.val) / 4 = c.val := by omega
  simp only [cell, ofCells, Vector.getElem_ofFn, h4, h5]

/-- Two Blocks with the same state array are equal. -/
theorem block_ext_cell {A B : Block} (h : ∀ r c, cell A r c = cell B r c) : A = B := by
  apply Vector.ext
  intro i hi
  have e := h ⟨i % 4, by omega⟩ ⟨i / 4, by omega⟩
  simpa [cell, Nat.mod_add_div] using e

@[simp] theorem cell_blockXor (A B : Block) (r c : Fin 4) :
    cell (blockXor A B) r c = cell A r c ^^^ cell B r c := by
  simp [cell]

/-- `RK(r)` of an expanded key. -/
@[simp] theorem keyExpansion_getElem (key : Block) (r : Nat) (h : r < 11) :
    (keyExpansion key)[r] = roundKeyOf key r := by
  simp [keyExpansion]

@[simp] theorem roundKeyOf_zero (key : Block) : roundKeyOf key 0 = key := rfl

@[simp] theorem roundKeyOf_succ (key : Block) (r : Nat) :
    roundKeyOf key (r + 1) = nextRoundKey (r + 1) (roundKeyOf key r) := rfl

/-- Adding a round key twice is the identity. -/
@[simp] theorem addRoundKey_cancel (K : Schedule) (r : Fin 11) (B : Block) :
    addRoundKey K r (addRoundKey K r B) = B := by
  simp [addRoundKey]

end Sys2Proof.Machine
end

