-- ==== Sys2Proof/Laws/Decode.lean ====
section
/-! SUPPORT. The fields of a command word, and what the decoder's two field checks answer
(spec/30_encoding.md R50, R53, R54). -/

namespace Sys2Proof

/-- The bits of a command word, field by field. -/
theorem cmdWord_getLsbD (ksel : BitVec 1) (opc : Byte) (k : Nat) :
    (cmdWord ksel opc).getLsbD k =
      if k < 8 then opc.getLsbD k else if k - 8 < 1 then ksel.getLsbD (k - 8) else false := by
  change BitVec.getLsbD (w := 23 + 1 + 8) (0#23 ++ ksel ++ opc) k = _
  simp only [BitVec.getLsbD_append, BitVec.getLsbD_zero]

@[simp] theorem opcOf_cmdWord (ksel : BitVec 1) (opc : Byte) : opcOf (cmdWord ksel opc) = opc := by
  apply BitVec.eq_of_getLsbD_eq
  intro k hk
  simp only [opcOf, BitVec.getLsbD_extractLsb', cmdWord_getLsbD]
  simp [hk]

@[simp] theorem kselOf_cmdWord (ksel : BitVec 1) (opc : Byte) : kselOf (cmdWord ksel opc) = ksel := by
  apply BitVec.eq_of_getLsbD_eq
  intro k hk
  have h0 : k = 0 := by omega
  subst h0
  simp only [kselOf, BitVec.getLsbD_extractLsb', cmdWord_getLsbD]
  simp

@[simp] theorem rsvdOf_cmdWord (ksel : BitVec 1) (opc : Byte) : rsvdOf (cmdWord ksel opc) = 0 := by
  apply BitVec.eq_of_getLsbD_eq
  intro k hk
  have h8 : ¬ 9 + k < 8 := by omega
  have h9 : ¬ 9 + k - 8 < 1 := by omega
  simp [rsvdOf, cmdWord_getLsbD, h8, h9]

/-- A command word is its three fields. -/
theorem cmd_eq_cmdWord (cmd : Word) (h : rsvdOf cmd = 0) : cmd = cmdWord (kselOf cmd) (opcOf cmd) := by
  apply BitVec.eq_of_getLsbD_eq
  intro k hk
  rw [cmdWord_getLsbD]
  split
  · simp [opcOf, *]
  · split
    · have h8 : k = 8 := by omega
      subst h8
      simp [kselOf]
    · have e := congrArg (BitVec.getLsbD · (k - 9)) h
      have h23 : k - 9 < 23 := by omega
      have hs : 9 + (k - 9) = k := by omega
      simpa [rsvdOf, h23, hs] using e

/-- KSEL is 0 or 1. -/
theorem kselOf_cases (cmd : Word) : kselOf cmd = 0 ∨ kselOf cmd = 1 := by
  generalize kselOf cmd = k
  revert k
  decide

/-- A request decodes exactly when its opcode has a row, RSVD is zero, and KSEL is 1 only on a row with a selector. -/
theorem decode_eq_ok {r : Request} {i : Instr} :
    decode r = .ok i ↔
      ∃ row, rowOf (opcOf r.cmd) = some row ∧ rsvdOf r.cmd = 0 ∧ (kselOf r.cmd = 1 → row.selector = true) ∧
        i = row.make (slotOf (kselOf r.cmd)) r.opnd := by
  unfold decode
  cases rowOf (opcOf r.cmd) with
  | none => simp
  | some row =>
    by_cases h : rsvdOf r.cmd ≠ 0 ∨ (kselOf r.cmd = 1 ∧ row.selector = false)
    · simp only [h, if_true, reduceCtorEq, false_iff]
      rintro ⟨_, e, h0, h1, -⟩
      cases e
      rcases h with h | ⟨h, h'⟩
      · exact h h0
      · simp [h1 h] at h'
    · simp only [h, if_false, Except.ok.injEq]
      rw [not_or, not_not, not_and] at h
      constructor
      · rintro rfl
        exact ⟨row, rfl, h.1, fun k => by simpa using h.2 k, rfl⟩
      · rintro ⟨_, e, -, -, rfl⟩
        cases e
        rfl

/-- The row of an opcode is a row of the map with that opcode. -/
theorem rowOf_eq_some {opc : Byte} {row : OpcodeRow} (h : rowOf opc = some row) : row ∈ opcodeMap ∧ row.opc = opc := by
  refine ⟨List.mem_of_find?_eq_some h, ?_⟩
  simpa using List.find?_some h

end Sys2Proof
end

