-- ==== Sys2Proof/Laws/State.lean ====
section
/-! SUPPORT. What each update of the state does to each field: one lemma per field per update, and the same for the
schedule of a slot and for STATUS. -/

namespace Sys2Proof.Machine

variable (s : State)

/-! ### `setCtr` -/

@[simp] theorem State.setCtr_ks0 (x : Num128) : (s.setCtr x).ks0 = s.ks0 := rfl
@[simp] theorem State.setCtr_ks1 (x : Num128) : (s.setCtr x).ks1 = s.ks1 := rfl
@[simp] theorem State.setCtr_ctr (x : Num128) : (s.setCtr x).ctr = some x := rfl
@[simp] theorem State.setCtr_twk (x : Num128) : (s.setCtr x).twk = s.twk := rfl
@[simp] theorem State.setCtr_res (x : Num128) : (s.setCtr x).res = s.res := rfl
@[simp] theorem State.setCtr_err (x : Num128) : (s.setCtr x).err = s.err := rfl
@[simp] theorem State.setCtr_lastErr (x : Num128) : (s.setCtr x).lastErr = s.lastErr := rfl
@[simp] theorem State.setCtr_rsp (x : Num128) : (s.setCtr x).rsp = s.rsp := rfl
@[simp] theorem State.setCtr_host (x : Num128) : (s.setCtr x).host = s.host := rfl
@[simp] theorem State.setCtr_key (x : Num128) (slot : Slot) : (s.setCtr x).key slot = s.key slot := by cases slot <;> rfl

/-! ### `setTwk` -/

@[simp] theorem State.setTwk_ks0 (T : Block) : (s.setTwk T).ks0 = s.ks0 := rfl
@[simp] theorem State.setTwk_ks1 (T : Block) : (s.setTwk T).ks1 = s.ks1 := rfl
@[simp] theorem State.setTwk_ctr (T : Block) : (s.setTwk T).ctr = s.ctr := rfl
@[simp] theorem State.setTwk_twk (T : Block) : (s.setTwk T).twk = some T := rfl
@[simp] theorem State.setTwk_res (T : Block) : (s.setTwk T).res = s.res := rfl
@[simp] theorem State.setTwk_err (T : Block) : (s.setTwk T).err = s.err := rfl
@[simp] theorem State.setTwk_lastErr (T : Block) : (s.setTwk T).lastErr = s.lastErr := rfl
@[simp] theorem State.setTwk_rsp (T : Block) : (s.setTwk T).rsp = s.rsp := rfl
@[simp] theorem State.setTwk_host (T : Block) : (s.setTwk T).host = s.host := rfl
@[simp] theorem State.setTwk_key (T : Block) (slot : Slot) : (s.setTwk T).key slot = s.key slot := by cases slot <;> rfl

/-! ### `setRes` -/

@[simp] theorem State.setRes_ks0 (B : Block) : (s.setRes B).ks0 = s.ks0 := rfl
@[simp] theorem State.setRes_ks1 (B : Block) : (s.setRes B).ks1 = s.ks1 := rfl
@[simp] theorem State.setRes_ctr (B : Block) : (s.setRes B).ctr = s.ctr := rfl
@[simp] theorem State.setRes_twk (B : Block) : (s.setRes B).twk = s.twk := rfl
@[simp] theorem State.setRes_res (B : Block) : (s.setRes B).res = some B := rfl
@[simp] theorem State.setRes_err (B : Block) : (s.setRes B).err = s.err := rfl
@[simp] theorem State.setRes_lastErr (B : Block) : (s.setRes B).lastErr = s.lastErr := rfl
@[simp] theorem State.setRes_rsp (B : Block) : (s.setRes B).rsp = s.rsp := rfl
@[simp] theorem State.setRes_host (B : Block) : (s.setRes B).host = s.host := rfl
@[simp] theorem State.setRes_key (B : Block) (slot : Slot) : (s.setRes B).key slot = s.key slot := by cases slot <;> rfl

/-! ### `respond` -/

@[simp] theorem State.respond_ks0 (c : Code) : (s.respond c).ks0 = s.ks0 := rfl
@[simp] theorem State.respond_ks1 (c : Code) : (s.respond c).ks1 = s.ks1 := rfl
@[simp] theorem State.respond_ctr (c : Code) : (s.respond c).ctr = s.ctr := rfl
@[simp] theorem State.respond_twk (c : Code) : (s.respond c).twk = s.twk := rfl
@[simp] theorem State.respond_res (c : Code) : (s.respond c).res = s.res := rfl
@[simp] theorem State.respond_err (c : Code) : (s.respond c).err = s.err := rfl
@[simp] theorem State.respond_lastErr (c : Code) : (s.respond c).lastErr = s.lastErr := rfl
@[simp] theorem State.respond_rsp (c : Code) : (s.respond c).rsp = some c := rfl
@[simp] theorem State.respond_host (c : Code) : (s.respond c).host = s.host := rfl
@[simp] theorem State.respond_key (c : Code) (slot : Slot) : (s.respond c).key slot = s.key slot := by cases slot <;> rfl

/-! ### `reject` -/

@[simp] theorem State.reject_ks0 (c : Code) : (s.reject c).ks0 = s.ks0 := rfl
@[simp] theorem State.reject_ks1 (c : Code) : (s.reject c).ks1 = s.ks1 := rfl
@[simp] theorem State.reject_ctr (c : Code) : (s.reject c).ctr = s.ctr := rfl
@[simp] theorem State.reject_twk (c : Code) : (s.reject c).twk = s.twk := rfl
@[simp] theorem State.reject_res (c : Code) : (s.reject c).res = s.res := rfl
@[simp] theorem State.reject_err (c : Code) : (s.reject c).err = true := rfl
@[simp] theorem State.reject_lastErr (c : Code) : (s.reject c).lastErr = c := rfl
@[simp] theorem State.reject_rsp (c : Code) : (s.reject c).rsp = some c := rfl
@[simp] theorem State.reject_host (c : Code) : (s.reject c).host = s.host := rfl
@[simp] theorem State.reject_key (c : Code) (slot : Slot) : (s.reject c).key slot = s.key slot := by cases slot <;> rfl

/-! ### `withHost` -/

@[simp] theorem State.withHost_ks0 (l : List Event) : (s.withHost l).ks0 = s.ks0 := rfl
@[simp] theorem State.withHost_ks1 (l : List Event) : (s.withHost l).ks1 = s.ks1 := rfl
@[simp] theorem State.withHost_ctr (l : List Event) : (s.withHost l).ctr = s.ctr := rfl
@[simp] theorem State.withHost_twk (l : List Event) : (s.withHost l).twk = s.twk := rfl
@[simp] theorem State.withHost_res (l : List Event) : (s.withHost l).res = s.res := rfl
@[simp] theorem State.withHost_err (l : List Event) : (s.withHost l).err = s.err := rfl
@[simp] theorem State.withHost_lastErr (l : List Event) : (s.withHost l).lastErr = s.lastErr := rfl
@[simp] theorem State.withHost_rsp (l : List Event) : (s.withHost l).rsp = s.rsp := rfl
@[simp] theorem State.withHost_host (l : List Event) : (s.withHost l).host = l := rfl
@[simp] theorem State.withHost_key (l : List Event) (slot : Slot) : (s.withHost l).key slot = s.key slot := by cases slot <;> rfl

/-! ### `afterReset` -/

@[simp] theorem State.afterReset_ks0 : (s.afterReset).ks0 = none := rfl
@[simp] theorem State.afterReset_ks1 : (s.afterReset).ks1 = none := rfl
@[simp] theorem State.afterReset_ctr : (s.afterReset).ctr = none := rfl
@[simp] theorem State.afterReset_twk : (s.afterReset).twk = none := rfl
@[simp] theorem State.afterReset_res : (s.afterReset).res = none := rfl
@[simp] theorem State.afterReset_err : (s.afterReset).err = false := rfl
@[simp] theorem State.afterReset_lastErr : (s.afterReset).lastErr = .ok := rfl
@[simp] theorem State.afterReset_rsp : (s.afterReset).rsp = none := rfl
@[simp] theorem State.afterReset_host : (s.afterReset).host = s.host := rfl
@[simp] theorem State.afterReset_key (slot : Slot) : (s.afterReset).key slot = none := by cases slot <;> rfl

/-! ### `setKey` -/

@[simp] theorem State.setKey_ctr (slot : Slot) (K : Schedule) : (s.setKey slot K).ctr = s.ctr := by cases slot <;> rfl
@[simp] theorem State.setKey_twk (slot : Slot) (K : Schedule) : (s.setKey slot K).twk = s.twk := by cases slot <;> rfl
@[simp] theorem State.setKey_res (slot : Slot) (K : Schedule) : (s.setKey slot K).res = s.res := by cases slot <;> rfl
@[simp] theorem State.setKey_err (slot : Slot) (K : Schedule) : (s.setKey slot K).err = s.err := by cases slot <;> rfl
@[simp] theorem State.setKey_lastErr (slot : Slot) (K : Schedule) : (s.setKey slot K).lastErr = s.lastErr := by cases slot <;> rfl
@[simp] theorem State.setKey_rsp (slot : Slot) (K : Schedule) : (s.setKey slot K).rsp = s.rsp := by cases slot <;> rfl
@[simp] theorem State.setKey_host (slot : Slot) (K : Schedule) : (s.setKey slot K).host = s.host := by cases slot <;> rfl
@[simp] theorem State.setKey_d_ks0 (K : Schedule) : (s.setKey .d K).ks0 = some K := rfl
@[simp] theorem State.setKey_d_ks1 (K : Schedule) : (s.setKey .d K).ks1 = s.ks1 := rfl
@[simp] theorem State.setKey_t_ks0 (K : Schedule) : (s.setKey .t K).ks0 = s.ks0 := rfl
@[simp] theorem State.setKey_t_ks1 (K : Schedule) : (s.setKey .t K).ks1 = some K := rfl

/-- The schedule of a slot after a load: the new one in the slot loaded, the old one in the other. -/
@[simp] theorem State.setKey_key (slot slot' : Slot) (K : Schedule) :
    (s.setKey slot K).key slot' = if slot' = slot then some K else s.key slot' := by
  cases slot <;> cases slot' <;> rfl

@[simp] theorem State.key_d : s.key .d = s.ks0 := rfl
@[simp] theorem State.key_t : s.key .t = s.ks1 := rfl

/-! ### Reset -/

@[simp] theorem State.reset_key (slot : Slot) : State.reset.key slot = none := by cases slot <;> rfl
@[simp] theorem State.reset_host : State.reset.host = [] := rfl

/-! ### STATUS -/

/-- Two states with the same valid bits, ERR and LASTERR have the same STATUS. -/
theorem State.status_congr (t : State) (hv : t.validBits = s.validBits) (he : t.err = s.err)
    (hl : t.lastErr = s.lastErr) : t.status = s.status := by
  simp only [State.status, hv, he, hl]

@[simp] theorem State.respond_status (c : Code) : (s.respond c).status = s.status := rfl
@[simp] theorem State.withHost_status (l : List Event) : (s.withHost l).status = s.status := rfl
@[simp] theorem State.reject_validBits (c : Code) : (s.reject c).validBits = s.validBits := rfl

end Sys2Proof.Machine
end

