-- ==== Sys2Proof/Laws/Ops.lean ====
section
/-! SUPPORT. Everything each shared operation can answer, said once. -/

namespace Sys2Proof.Machine

variable {s t : State}

/-- Completing answers the state with RSP = OK. -/
@[simp] theorem complete_eq_next : complete s = .next t ↔ t = s.respond .ok := by
  simp [complete, eq_comm]

/-- A rejection answers the state with the code recorded. -/
@[simp] theorem rejected_eq_next (c : Code) : rejected s c = .next t ↔ t = s.reject c := by
  simp [rejected, eq_comm]

/-- Needing a schedule: E_NOKEY when the slot holds no value, else the rest of the command. -/
theorem needKey_eq_next {slot : Slot} {k : Schedule → Result} :
    needKey s slot k = .next t ↔
      (s.key slot = none ∧ t = s.reject .eNokey) ∨ ∃ K, s.key slot = some K ∧ k K = .next t := by
  unfold needKey
  cases s.key slot <;> simp

/-- Needing the counter: E_NOCTR when it holds no value, else the rest of the command. -/
theorem needCtr_eq_next {k : Num128 → Result} :
    needCtr s k = .next t ↔
      (s.ctr = none ∧ t = s.reject .eNoctr) ∨ ∃ x, s.ctr = some x ∧ k x = .next t := by
  unfold needCtr
  cases s.ctr <;> simp

/-- Needing the tweak: E_NOTWK when it holds no value, else the rest of the command. -/
theorem needTwk_eq_next {k : Block → Result} :
    needTwk s k = .next t ↔
      (s.twk = none ∧ t = s.reject .eNotwk) ∨ ∃ T, s.twk = some T ∧ k T = .next t := by
  unfold needTwk
  cases s.twk <;> simp

/-- A needed schedule that is there. -/
theorem needKey_of_some {slot : Slot} {k : Schedule → Result} {K : Schedule} (h : s.key slot = some K) :
    needKey s slot k = k K := by
  simp [needKey, h]

/-- A needed schedule that is not there. -/
theorem needKey_of_none {slot : Slot} {k : Schedule → Result} (h : s.key slot = none) :
    needKey s slot k = rejected s .eNokey := by
  simp [needKey, h]

/-- A needed counter that is there. -/
theorem needCtr_of_some {k : Num128 → Result} {x : Num128} (h : s.ctr = some x) : needCtr s k = k x := by
  simp [needCtr, h]

/-- A needed counter that is not there. -/
theorem needCtr_of_none {k : Num128 → Result} (h : s.ctr = none) : needCtr s k = rejected s .eNoctr := by
  simp [needCtr, h]

/-- A needed tweak that is there. -/
theorem needTwk_of_some {k : Block → Result} {T : Block} (h : s.twk = some T) : needTwk s k = k T := by
  simp [needTwk, h]

/-- A needed tweak that is not there. -/
theorem needTwk_of_none {k : Block → Result} (h : s.twk = none) : needTwk s k = rejected s .eNotwk := by
  simp [needTwk, h]

/-- Everything a step that answers a next state can have done: the block was idle, served a reset, or performed a command. -/
theorem step_eq_next (h : step s = .next t) :
    (s.host = [] ∧ t = s) ∨
    (∃ a rest, s.host = .reset a :: rest ∧ t = (s.withHost rest).afterReset) ∨
    (∃ r rest, s.host = .command r :: rest ∧ perform r (s.withHost rest) = .next t) := by
  unfold step serve at h
  split at h
  · exact .inl ⟨‹_›, by simpa using h.symm⟩
  · exact .inr (.inr ⟨_, _, ‹_›, h⟩)
  · exact .inr (.inl ⟨_, _, ‹_›, by simpa using h.symm⟩)
  · cases h

/-- Performing a command that decodes runs it. -/
theorem perform_of_ok {r : Request} {i : Instr} (h : decode r = .ok i) : perform r s = exec i s := by
  simp [perform, h]

/-- Performing a command that does not decode rejects it. -/
theorem perform_of_error {r : Request} {c : Code} (h : decode r = .error c) : perform r s = rejected s c := by
  simp [perform, h]

end Sys2Proof.Machine
end

