-- ==== Sys2Proof/Laws/Exec.lean ====
section
/-! SUPPORT. What any command can do, said once for all of them: it answers a next state, which is a rejection or a completion
(spec/00_scope.md R11, 60_exceptions.md R140). -/

namespace Sys2Proof.Machine

/-- Where a command completes: the error fields and the host's list are as before, and every register that held a value still
holds one (10_state.md R26, R27). -/
structure Completes (s t : State) : Prop where
  rsp : t.rsp = some .ok
  err : t.err = s.err
  lastErr : t.lastErr = s.lastErr
  host : t.host = s.host
  ks0 : s.ks0.isSome = true → t.ks0.isSome = true
  ks1 : s.ks1.isSome = true → t.ks1.isSome = true
  ctr : s.ctr.isSome = true → t.ctr.isSome = true
  twk : s.twk.isSome = true → t.twk.isSome = true
  res : s.res.isSome = true → t.res.isSome = true

/-- A state that a command may answer: a rejection with a code of R141 other than OK, or a completion. -/
def Answer (s t : State) : Prop := (∃ c, c ≠ .ok ∧ t = s.reject c) ∨ Completes s t

/-- A result is an answer: a next state of that shape. -/
def Answers (s : State) (r : Result) : Prop := ∃ t, r = .next t ∧ Answer s t

theorem answers_rejected {s : State} {c : Code} (h : c ≠ .ok) : Answers s (rejected s c) := ⟨_, rfl, .inl ⟨c, h, rfl⟩⟩

theorem answers_needKey {s : State} {slot : Slot} {k : Schedule → Result} (h : ∀ K, Answers s (k K)) :
    Answers s (needKey s slot k) := by
  unfold needKey
  split
  · exact answers_rejected (by decide)
  · exact h _

theorem answers_needCtr {s : State} {k : Num128 → Result} (h : ∀ x, Answers s (k x)) : Answers s (needCtr s k) := by
  unfold needCtr
  split
  · exact answers_rejected (by decide)
  · exact h _

theorem answers_needTwk {s : State} {k : Block → Result} (h : ∀ T, Answers s (k T)) : Answers s (needTwk s k) := by
  unfold needTwk
  split
  · exact answers_rejected (by decide)
  · exact h _

theorem completes_respond (s : State) : Completes s (s.respond .ok) := by constructor <;> simp

theorem completes_setKey (s : State) (slot : Slot) (K : Schedule) : Completes s ((s.setKey slot K).respond .ok) := by
  cases slot <;> constructor <;> simp

theorem completes_setCtr (s : State) (x : Num128) : Completes s ((s.setCtr x).respond .ok) := by constructor <;> simp

theorem completes_setTwk (s : State) (T : Block) : Completes s ((s.setTwk T).respond .ok) := by constructor <;> simp

theorem completes_setRes (s : State) (B : Block) : Completes s ((s.setRes B).respond .ok) := by constructor <;> simp

theorem completes_unit (s : State) (B T : Block) : Completes s (((s.setRes B).setTwk T).respond .ok) := by
  constructor <;> simp

/-- Every command answers a next state, which is a rejection or a completion. -/
theorem exec_answers (i : Instr) (s : State) : Answers s (exec i s) := by
  have done {t : State} (h : Completes s (t.respond .ok)) : Answers s (complete t) := ⟨_, rfl, .inr h⟩
  cases i with
  | nop => exact done (completes_respond s)
  | keyld => exact done (completes_setKey ..)
  | enc => exact answers_needKey fun _ => done (completes_setRes ..)
  | dec => exact answers_needKey fun _ => done (completes_setRes ..)
  | ctrld => exact done (completes_setCtr ..)
  | ctradd =>
    simp only [exec, execCtradd]
    split
    · exact answers_needCtr fun _ => done (completes_setCtr ..)
    · exact answers_rejected (by decide)
  | ctrrd => exact answers_needCtr fun _ => done (completes_setRes ..)
  | twld => exact done (completes_setTwk ..)
  | twrd => exact answers_needTwk fun _ => done (completes_setRes ..)
  | twgen => exact answers_needKey fun _ => answers_needCtr fun _ => done (completes_setTwk ..)
  | twdbl => exact answers_needTwk fun _ => done (completes_setTwk ..)
  | xtse => exact answers_needKey fun _ => answers_needTwk fun _ => done (completes_unit ..)
  | xtsd => exact answers_needKey fun _ => answers_needTwk fun _ => done (completes_unit ..)
  | statrd => exact done (completes_setRes ..)

end Sys2Proof.Machine
end

