-- ==== Sys2Proof/Laws/PerInstr.lean ====
section
/-! SUPPORT. The families of statements made once per instruction (spec/30_encoding.md R50, R52, R53). -/

namespace Sys2Proof.Laws.EncodesLegal

/-- The encoding of an instruction is a legal command word: RSVD is zero, OPC is the instruction's opcode, and KSEL is 1 only
on an opcode with a selector. -/
def Statement (i : Instr) : Prop :=
  rsvdOf (encode i).cmd = 0 ∧ opcOf (encode i).cmd = opcodeOf i ∧
    (kselOf (encode i).cmd = 1 → opcodeOf i = 0x01 ∨ opcodeOf i = 0x02 ∨ opcodeOf i = 0x03)

/-- The statement follows from what KSEL the instruction encodes. -/
theorem of_selector (i : Instr)
    (h : selectorOf i = 1 → opcodeOf i = 0x01 ∨ opcodeOf i = 0x02 ∨ opcodeOf i = 0x03) : Statement i := by
  simpa [Statement, encode] using h

theorem nop : Statement .nop := of_selector _ (by decide)
theorem keyld (slot : Slot) (key : Block) : Statement (.keyld slot key) := of_selector _ (fun _ => .inl rfl)
theorem enc (slot : Slot) (block : Block) : Statement (.enc slot block) := of_selector _ (fun _ => .inr (.inl rfl))
theorem dec (slot : Slot) (block : Block) : Statement (.dec slot block) := of_selector _ (fun _ => .inr (.inr rfl))
theorem ctrld (value : Block) : Statement (.ctrld value) := of_selector _ (fun h => absurd h (by simp [selectorOf]))
theorem ctradd (addend : Block) : Statement (.ctradd addend) := of_selector _ (fun h => absurd h (by simp [selectorOf]))
theorem ctrrd : Statement .ctrrd := of_selector _ (by decide)
theorem twld (tweak : Block) : Statement (.twld tweak) := of_selector _ (fun h => absurd h (by simp [selectorOf]))
theorem twrd : Statement .twrd := of_selector _ (by decide)
theorem twgen : Statement .twgen := of_selector _ (by decide)
theorem twdbl : Statement .twdbl := of_selector _ (by decide)
theorem xtse (block : Block) : Statement (.xtse block) := of_selector _ (fun h => absurd h (by simp [selectorOf]))
theorem xtsd (block : Block) : Statement (.xtsd block) := of_selector _ (fun h => absurd h (by simp [selectorOf]))
theorem statrd : Statement .statrd := of_selector _ (by decide)

end Sys2Proof.Laws.EncodesLegal
end

