-- ==== Sys2Proof/Tests/Slice0.lean ====
section
/-! SUPPORT. Tests whose expected values stand in spec/ (mostly 95_test_vectors.md), and for every statement with hypotheses a
witness that meets them. -/

namespace Sys2Proof.Tests

open Sys2Proof.Machine

/-! ### Small states -/

/-- The schedule of the key 000102...0f, as the round-key table of 95_test_vectors.md section 1.3 lists it. -/
def kdSchedule : Schedule :=
  #v[toBE 0x000102030405060708090a0b0c0d0e0f, toBE 0xd6aa74fdd2af72fadaa678f1d6ab76fe,
    toBE 0xb692cf0b643dbdf1be9bc5006830b3fe, toBE 0xb6ff744ed2c2c9bf6c590cbf0469bf41,
    toBE 0x47f7f7bc95353e03f96c32bcfd058dfd, toBE 0x3caaa3e8a99f9deb50f3af57adf622aa,
    toBE 0x5e390f7df7a69296a7553dc10aa31f6b, toBE 0x14f9701ae35fe28c440adf4d4ea9c026,
    toBE 0x47438735a41c65b9e016baf4aebf7ad2, toBE 0x549932d1f08557681093ed9cbe2c974e,
    toBE 0x13111d7fe3944a17f307a78b4d2b30c5]

/-- The schedule of the key 2b7e15...3c, from the same table. -/
def ktSchedule : Schedule :=
  #v[toBE 0x2b7e151628aed2a6abf7158809cf4f3c, toBE 0xa0fafe1788542cb123a339392a6c7605,
    toBE 0xf2c295f27a96b9435935807a7359f67f, toBE 0x3d80477d4716fe3e1e237e446d7a883b,
    toBE 0xef44a541a8525b7fb671253bdb0bad00, toBE 0xd4d1c6f87c839d87caf2b8bc11f915bc,
    toBE 0x6d88a37a110b3efddbf98641ca0093fd, toBE 0x4e54f70e5f5fc9f384a64fb24ea6dc4f,
    toBE 0xead27321b58dbad2312bf5607f8d292f, toBE 0xac7766f319fadc2128d12941575c006e,
    toBE 0xd014f9a8c9ee2589e13f0cc8b6630ca6]

/-- Both schedules, counter 0 and the tweak W1 of 95_test_vectors.md loaded. -/
def loaded : State :=
  { State.reset with
    ks0 := some kdSchedule, ks1 := some ktSchedule, ctr := some 0
    twk := some (toBE 0x7df76b0c1ab899b33e42f047b91b546f), rsp := some .ok }

/-- A state with the host's next command in front. -/
def issuing (s : State) (r : Request) : State := s.withHost [.command r]

/-- The next state, or the state given where there is none. -/
def nextOf (d : State) (r : Host.Outcome State Fault Refusal) : State :=
  match r with
  | .next t => t
  | .fault _ => d
  | .refused _ => d

/-- The state after one step at a command. -/
def after (s : State) (cmd : Word) (opnd : Num128) : State := nextOf s (step (issuing s ⟨cmd, toBE opnd⟩))

/-! ### Well-formedness -/

/-- 41_counter.md R103: an operand of CTRADD with a nonzero byte 9 is refused; one without is not. -/
theorem test_wellFormed_smoke :
    (Instr.ctradd (toBE 0x01000000000000000001000000000000)).wellFormed = false ∧
      (Instr.ctradd (toBE 0x01000000000000000000000000000000)).wellFormed = true := by decide

/-! ### Decoding: the CMD values of 30_encoding.md R52, OPND zero -/

theorem test_decode_control :
    decodeTableWord 32 0x00000000 = some .nop ∧ decodeTableWord 32 0x000000F0 = some .statrd := by decide

theorem test_decode_keyld_enc_dec :
    decodeTableWord 32 0x00000001 = some (.keyld .d zeroBlock) ∧ decodeTableWord 32 0x00000101 = some (.keyld .t zeroBlock) ∧
      decodeTableWord 32 0x00000002 = some (.enc .d zeroBlock) ∧ decodeTableWord 32 0x00000102 = some (.enc .t zeroBlock) ∧
      decodeTableWord 32 0x00000003 = some (.dec .d zeroBlock) ∧ decodeTableWord 32 0x00000103 = some (.dec .t zeroBlock) := by
  decide

theorem test_decode_counter :
    decodeTableWord 32 0x00000010 = some (.ctrld zeroBlock) ∧ decodeTableWord 32 0x00000011 = some (.ctradd zeroBlock) ∧
      decodeTableWord 32 0x00000012 = some .ctrrd := by decide

theorem test_decode_tweak :
    decodeTableWord 32 0x00000020 = some (.twld zeroBlock) ∧ decodeTableWord 32 0x00000021 = some .twrd ∧
      decodeTableWord 32 0x00000022 = some .twgen ∧ decodeTableWord 32 0x00000023 = some .twdbl := by decide

theorem test_decode_unit :
    decodeTableWord 32 0x00000030 = some (.xtse zeroBlock) ∧ decodeTableWord 32 0x00000031 = some (.xtsd zeroBlock) := by
  decide

/-- The operand's first byte lies in bits 39:32 (log entry 7). -/
theorem test_decode_operand_numbering :
    decodeTableWord 160 0x0500000001 = some (.keyld .d (toBE 0x05000000000000000000000000000000)) := by decide

/-- 95_test_vectors.md E2 to E7, E13, W13: the rejected words and their codes. -/
theorem test_decode_rejections :
    decode ⟨0x00000100, zeroBlock⟩ = .error .eRsvd ∧ decode ⟨0x00000004, zeroBlock⟩ = .error .eOpc ∧
      decode ⟨0x000000ff, zeroBlock⟩ = .error .eOpc ∧ decode ⟨0x00000204, zeroBlock⟩ = .error .eOpc ∧
      decode ⟨0x00000201, zeroBlock⟩ = .error .eRsvd ∧ decode ⟨0x80000002, zeroBlock⟩ = .error .eRsvd ∧
      decode ⟨0x000001f0, zeroBlock⟩ = .error .eRsvd ∧ decode ⟨0x00000122, zeroBlock⟩ = .error .eRsvd := by decide

/-! ### AES: 95_test_vectors.md A1 to A9, the round-key table, F1 -/

theorem test_field :
    xtime 0x80 = 0x1b ∧ gfMul 0x57 0x83 = 0xc1 ∧ gfMul 0x57 0x13 = 0xfe ∧ xtime 0x57 = 0xae := by decide

theorem test_tables : sbox 0x00 = 0x63 ∧ sbox 0x53 = 0xed ∧ invSbox 0x63 = 0x00 ∧ sbox 0xff = 0x16 ∧ invSbox 0x0f = 0xfb := by
  decide

theorem test_subBytes :
    subBytes (toBE 0x00112233445566778899aabbccddeeff) = toBE 0x638293c31bfc33f5c4eeacea4bc12816 ∧
      invSubBytes (toBE 0x00112233445566778899aabbccddeeff) = toBE 0x52e3946686edd30297f962fe27c9997d := by decide +kernel

theorem test_shiftRows :
    shiftRows (toBE 0x00112233445566778899aabbccddeeff) = toBE 0x0055aaff4499ee3388dd2277cc1166bb ∧
      invShiftRows (toBE 0x00112233445566778899aabbccddeeff) = toBE 0x00ddaa774411eebb885522ffcc996633 := by decide +kernel

theorem test_mixColumns :
    mixColumns (toBE 0x00112233445566778899aabbccddeeff) = toBE 0x2277005566334411aaff88ddeebbcc99 ∧
      invMixColumns (toBE 0x00112233445566778899aabbccddeeff) = toBE 0xaaff88ddeebbcc992277005566334411 := by decide +kernel

/-- 40_aes_core.md R70: the column db 13 53 45. -/
theorem test_mixColumns_column :
    wordOf (mixColumns (toBE 0xdb135345000000000000000000000000)) 0 = #v[0x8e, 0x4d, 0xa1, 0xbc] := by decide +kernel

/-- 95_test_vectors.md section 1.3: all eleven round keys of the key 2b7e15...3c. -/
theorem test_keyld_schedule : keyExpansion (toBE 0x2b7e151628aed2a6abf7158809cf4f3c) = ktSchedule := by decide +kernel

/-- KEYLD.T loads KS[1] alone and K1V (40_aes_core.md R79). -/
theorem test_keyld_slot :
    (after State.reset 0x00000101 0).ks1.isSome = true ∧ (after State.reset 0x00000101 0).ks0 = none ∧
      (after State.reset 0x00000101 0).status = 0x00000002 := by decide

/-- 95_test_vectors.md F1, A16: ENC. -/
theorem test_enc :
    (after loaded 0x00000002 0x00112233445566778899aabbccddeeff).res = some (toBE 0x69c4e0d86a7b0430d8cdb78070b4c55a) := by
  decide +kernel

/-- 95_test_vectors.md F1: DEC. -/
theorem test_dec :
    (after loaded 0x00000003 0x69c4e0d86a7b0430d8cdb78070b4c55a).res = some (toBE 0x00112233445566778899aabbccddeeff) := by
  decide +kernel

/-- 95_test_vectors.md A23: ENC from reset is rejected. -/
theorem test_enc_no_key :
    (after State.reset 0x00000002 0).status = 0x00008400 ∧ (after State.reset 0x00000002 0).response = some ⟨4, none⟩ := by
  decide

/-- 95_test_vectors.md A24: with only KS[0] loaded, DEC.T is rejected. -/
theorem test_dec_selects_slot :
    (after { State.reset with ks0 := some kdSchedule } 0x00000103 0).rsp = some .eNokey := by decide

/-! ### Counter: 95_test_vectors.md K3 to K12 -/

theorem test_ctrld :
    (after State.reset 0x00000010 0x1032547698badcfeefcdab8967452301).ctr = some 0x0123456789abcdeffedcba9876543210 := by
  decide

theorem test_add128_carry :
    add128 0x0000000000000000ffffffffffffffff 1 = 0x00000000000000010000000000000000 ∧
      add128 0xffffffffffffffffffffffffffffffff 1 = 0 ∧
      add128 0x0000000000000000ffffffffffffffff 0xffffffffffffffff = 0x0000000000000001fffffffffffffffe ∧
      add128 0x00000000000000010000000000000000 0xffffffffffffffff = 0x0000000000000001ffffffffffffffff := by decide

/-- K8. -/
theorem test_ctradd :
    (after { State.reset with ctr := some 0x0123456789abcdeffedcba9876543210 } 0x00000011
      0xefcdab89674523010000000000000000).ctr = some 0x0123456789abcdefffffffffffffffff := by decide

/-- K11, K12: a bad operand is reported before a missing counter. -/
theorem test_ctradd_rejections :
    (after State.reset 0x00000011 0x01000000000000000001000000000000).rsp = some .eOpnd ∧
      (after State.reset 0x00000011 0x01000000000000000000000000000000).rsp = some .eNoctr := by decide

theorem test_ctrrd :
    (after { State.reset with ctr := some 0x10000000000000000 } 0x00000012 0).res =
      some (toBE 0x00000000000000000100000000000000) := by decide

theorem test_ctrrd_no_counter : (after State.reset 0x00000012 0).rsp = some .eNoctr := by decide

/-! ### Tweak: 95_test_vectors.md B5, B6, D3 to D10, W1, W8 to W12 -/

theorem test_tweakBlock :
    tweakBlock 0x10000000000000000 = toBE 0x00000000000000010000000000000000 ∧
      tweakBlock (le128 (toBE 0x1032547698badcfeefcdab8967452301)) = toBE 0x0123456789abcdeffedcba9876543210 := by decide

theorem test_double :
    double (toBE 0x00000000000000000000000000000080) = toBE 0x87000000000000000000000000000000 ∧
      double (toBE 0x00000000000000800000000000000000) = toBE 0x00000000000000000100000000000000 ∧
      double (toBE 0xffffffffffffffffffffffffffffffff) = toBE 0x79ffffffffffffffffffffffffffffff ∧
      double (toBE 0x000102030405060708090a0b0c0d0e8f) = toBE 0x87020406080a0c0e10121416181a1c1e := by decide

theorem test_twld :
    (after State.reset 0x00000020 0x00000000000000000000000000000080).twk = some (toBE 0x00000000000000000000000000000080) ∧
      (after State.reset 0x00000020 0).status = 0x00000008 := by decide

theorem test_twrd :
    (after { State.reset with twk := some (toBE 0x01000000000000000000000000000000) } 0x00000021 0).res =
      some (toBE 0x01000000000000000000000000000000) ∧ (after State.reset 0x00000021 0).rsp = some .eNotwk := by decide

/-- W1, W10: TWGEN of counter 0 leaves RES and CTR. -/
theorem test_twgen :
    (after { loaded with twk := none } 0x00000022 0).twk = some (toBE 0x7df76b0c1ab899b33e42f047b91b546f) ∧
      (after { loaded with twk := none } 0x00000022 0).res = none := by decide +kernel

/-- W8, W9. -/
theorem test_twgen_rejections :
    (after State.reset 0x00000022 0).rsp = some .eNokey ∧
      (after { State.reset with ks1 := some ktSchedule } 0x00000022 0).rsp = some .eNoctr := by decide

theorem test_twdbl :
    (after { State.reset with twk := some (toBE 0x01000000000000000000000000000000) } 0x00000023 0).twk =
      some (toBE 0x02000000000000000000000000000000) := by decide

/-! ### Unit: 95_test_vectors.md X1, X7 -/

theorem test_xtse :
    (after loaded 0x00000030 0).res = some (toBE 0x45c72ab18f33b5d2bca8aa49ad1d5fcb) ∧
      (after loaded 0x00000030 0).twk = some (toBE 0xfaeed718347033677d84e08f7237a8de) := by decide +kernel

theorem test_xtsd :
    (after loaded 0x00000031 0x45c72ab18f33b5d2bca8aa49ad1d5fcb).res = some (toBE 0) ∧
      (after loaded 0x00000031 0x45c72ab18f33b5d2bca8aa49ad1d5fcb).twk = some (toBE 0xfaeed718347033677d84e08f7237a8de) := by
  decide +kernel

theorem test_xtse_rejections :
    (after State.reset 0x00000030 0).rsp = some .eNokey ∧
      (after { State.reset with ks0 := some kdSchedule } 0x00000030 0).rsp = some .eNotwk := by decide

/-! ### Control: 95_test_vectors.md S1, S4 and program P4 -/

theorem test_nop :
    (after loaded 0x00000000 0).status = 0x0000000f ∧ (after State.reset 0 0).response = some ⟨0, none⟩ := by decide

theorem test_statrd_first :
    (after State.reset 0x000000F0 0).res = some (toBE 0) ∧ (after State.reset 0x000000F0 0).status = 0x00000010 := by decide

/-- P4 step 5. -/
theorem test_statrd_after_rejection :
    (after (State.reset.reject .eNoctr) 0x000000F0 0).res = some (toBE 0x00850000000000000000000000000000) ∧
      (after (State.reset.reject .eNoctr) 0x000000F0 0).status = 0x00008510 := by decide

/-- P4 steps 1 and 2: a rejection overwrites LASTERR. -/
theorem test_rejection_overwrites :
    (after (State.reset.reject .eNokey) 0x00000007 0).status = 0x00008100 ∧
      (after (State.reset.reject .eOpc) 0x00000112 0).status = 0x00008200 := by decide

/-! ### Assembler: 30_encoding.md R57, 95_test_vectors.md K8 -/

theorem test_assemble :
    assemble "ENC.D 00112233445566778899aabbccddeeff ; one block" =
        .ok [.enc .d (toBE 0x00112233445566778899aabbccddeeff)] ∧
      assemble "CTRADD #1" = .ok [.ctradd (toBE 0x01000000000000000000000000000000)] ∧
      assemble "CTRLD #0xffffffffffffffff" = .ok [.ctrld (toBE 0xffffffffffffffff0000000000000000)] ∧
      assemble "; nothing" = .ok [] := by decide +kernel

theorem test_assemble_refuses :
    assemble "ENC 00112233445566778899aabbccddeeff" = .error .missingSelector ∧
      assemble "NOP.D" = .error .badSelector ∧ assemble "TWRD #1" = .error .badOperand ∧
      assemble "CTRADD #18446744073709551616" = .error .outOfRange := by decide +kernel

theorem test_listing :
    listing (encode (.ctradd (toLE 1))) = "CMD=00000011 OPND=01000000000000000000000000000000".toList := by decide +kernel

/-! ### Streaming: 43_xtsn_unit.md R124 -/

/-- The source's failures (R124): buffer length 17, skip 5, sector size 10. -/
theorem test_validation :
    Call.valid ⟨List.replicate 17 0, .encrypt, 0, 512, 0⟩ = false ∧ Call.valid ⟨[], .encrypt, 0, 512, 5⟩ = false ∧
      Call.valid ⟨[], .encrypt, 0, 10, 0⟩ = false ∧ Call.valid ⟨List.replicate 16 0, .encrypt, 0, 512, 496⟩ = true := by decide

/-- The commands of 95_test_vectors.md P5, decrypting bytes 32 to 63 of a 64-byte sector; the units are zero here. -/
theorem test_stream_commands :
    Call.commands ⟨List.replicate 32 0, .decrypt, 0x102, 64, 32⟩ =
      [.ctrld (toBE 0x02010000000000000000000000000000), .ctradd (toBE 0), .twgen, .twdbl, .twdbl,
        .xtsd (toBE 0), .xtsd (toBE 0), .ctradd (toBE 0x01000000000000000000000000000000)] := by decide +kernel

/-! ### Witnesses: states and operands that meet the hypotheses of each statement -/

/-- A request that decodes and one that does not. -/
def goodRequest : Request := ⟨0x00000012, zeroBlock⟩

/-- A request with an unassigned opcode. -/
def badRequest : Request := ⟨0x00000007, zeroBlock⟩

theorem witness_StepPerformsNextCommand :
    (issuing loaded goodRequest).host = [.command goodRequest] ∧ decode goodRequest = .ok .ctrrd ∧
      (issuing loaded badRequest).host = [.command badRequest] ∧ decode badRequest = .error .eOpc := by decide

/-- A request of each clause, at opcodes and bits where the clauses meet. -/
theorem witness_EveryCommandWordIsDecoded :
    (opcOf 0x00000204 ∉ assignedOpcodes) ∧
      (opcOf 0x00000200 ∈ assignedOpcodes ∧ rsvdOf 0x00000200 ≠ 0) ∧
      (opcOf 0x000001F0 ∈ assignedOpcodes ∧ kselOf 0x000001F0 = 1 ∧ opcOf 0x000001F0 ∉ selectorOpcodes) ∧
      (opcOf 0x00000103 ∈ assignedOpcodes ∧ rsvdOf 0x00000103 = 0 ∧ opcOf 0x00000103 ∈ selectorOpcodes) ∧
      (opcOf 0x000000F0 ∈ assignedOpcodes ∧ rsvdOf 0x000000F0 = 0 ∧ kselOf 0x000000F0 = 0) := by decide

/-- `rejectsReserved`, for every opcode: a word with a reserved bit, and one with KSEL = 1. -/
theorem witness_rejectsReserved :
    ∀ opc ∈ assignedOpcodes,
      (opcOf (cmdWord 0 opc ||| 0x00000200) = opc ∧ rsvdOf (cmdWord 0 opc ||| 0x00000200) ≠ 0) ∧
        (opcOf (cmdWord 1 opc) = opc ∧ kselOf (cmdWord 1 opc) = 1) := by decide

/-- One request for each rejection code, and one that is not rejected. -/
theorem witness_FirstFailingCheckIsReported :
    check State.reset badRequest = .eOpc ∧ check State.reset ⟨0x00000112, zeroBlock⟩ = .eRsvd ∧
      check State.reset ⟨0x00000011, toBE 0x01⟩ = .eOpnd ∧ check State.reset ⟨0x00000022, zeroBlock⟩ = .eNokey ∧
      check State.reset goodRequest = .eNoctr ∧ check State.reset ⟨0x00000021, zeroBlock⟩ = .eNotwk ∧
      check loaded goodRequest = .ok := by decide

theorem witness_RejectionWritesOnlyStatus : check State.reset goodRequest = .eNoctr ∧ Code.eNoctr ≠ .ok := by decide

/-- One completed and one rejected command, each in a state with ERR = 1. -/
theorem witness_ErrorStatusIsSticky :
    perform ⟨0, zeroBlock⟩ (State.reset.reject .eOpc) = .next ((State.reset.reject .eOpc).respond .ok) ∧
      perform goodRequest (State.reset.reject .eOpc) = .next (State.reset.reject .eNoctr) := ⟨rfl, rfl⟩

/-- A reset in both forms; and a recorded error that one clears. -/
theorem witness_ResetAbandonsCommand :
    ((loaded.reject .eOpc).withHost [.reset none]).err = true ∧ (loaded.reject .eOpc).lastErr ≠ .ok ∧
      step ((loaded.reject .eOpc).withHost [.reset none]) = .next State.reset ∧
    (loaded.withHost [.reset (some goodRequest)]).host = [.reset (some goodRequest)] ∧
      (loaded.withHost [.reset none]).host = [.reset none] := ⟨rfl, by decide, rfl, rfl, rfl⟩

/-- A state past reset that meets the invariant, and its step. -/
theorem witness_StepKeepsInvariant :
    (issuing ((State.reset.setKey .d (keyExpansion zeroBlock)).respond .ok) goodRequest).Inv ∧
      step (issuing ((State.reset.setKey .d (keyExpansion zeroBlock)).respond .ok) goodRequest) =
        .next ((State.reset.setKey .d (keyExpansion zeroBlock)).reject .eNoctr) := by
  refine ⟨⟨by decide, ?_, by decide, by decide⟩, rfl⟩
  intro slot K h
  cases slot
  · exact ⟨zeroBlock, (Option.some.inj h).symm⟩
  · cases h

theorem witness_ValidBitsClearedOnlyByReset :
    (∀ a rest, (issuing loaded ⟨0, zeroBlock⟩).host ≠ .reset a :: rest) ∧
      step (issuing loaded ⟨0, zeroBlock⟩) = .next loaded ∧ loaded.k0v = true ∧ loaded.k1v = true ∧ loaded.cv = true ∧
      loaded.tv = true ∧ (loaded.setRes zeroBlock).rv = true := by
  refine ⟨?_, rfl, rfl, rfl, rfl, rfl, rfl⟩
  intro a rest h
  cases h

/-- A step that changes each register. -/
theorem witness_OnlyListedCommandsWrite :
    (∃ t, exec (.keyld .d zeroBlock) State.reset = .next t ∧ t.ks0 ≠ State.reset.ks0) ∧
      (∃ t, exec (.keyld .t zeroBlock) State.reset = .next t ∧ t.ks1 ≠ State.reset.ks1) ∧
      (∃ t, exec (.ctrld zeroBlock) State.reset = .next t ∧ t.ctr ≠ State.reset.ctr) ∧
      (∃ t, exec (.twld zeroBlock) State.reset = .next t ∧ t.twk ≠ State.reset.twk) ∧
      ∃ t, exec .statrd State.reset = .next t ∧ t.res ≠ State.reset.res :=
  ⟨⟨_, rfl, Option.some_ne_none _⟩, ⟨_, rfl, Option.some_ne_none _⟩, ⟨_, rfl, Option.some_ne_none _⟩,
    ⟨_, rfl, Option.some_ne_none _⟩, ⟨_, rfl, Option.some_ne_none _⟩⟩

theorem witness_SchedulesAreWriteOnly :
    (∀ k B, Instr.statrd ≠ .enc k B) ∧ (∀ k B, Instr.statrd ≠ .dec k B) ∧ Instr.statrd ≠ .twgen ∧
      (∀ B, Instr.statrd ≠ .xtse B) ∧ (∀ B, Instr.statrd ≠ .xtsd B) ∧
      (some ktSchedule).isSome = loaded.ks0.isSome ∧ (some kdSchedule).isSome = loaded.ks1.isSome := by
  simp [loaded]

theorem witness_EveryCommandIsAnswered : (issuing loaded badRequest).host = [.command badRequest] := rfl

theorem witness_IdleBlockKeepsState : loaded.host = [] := rfl

theorem witness_OverlappingHostIsRefused :
    (loaded.withHost [.overlapped goodRequest]).host = [.overlapped goodRequest] := rfl

/-- The first and the last of the inner constants. -/
theorem witness_RoundConstants : (1 ≤ 1 ∧ 1 < 10) ∧ (1 ≤ 9 ∧ 9 < 10) := by decide

/-- A column of a Block. -/
theorem witness_MixColumnsByColumn :
    wordOf (toBE 0xdb135345000000000000000000000000) 0 = #v[0xdb, 0x13, 0x53, 0x45] := by decide

theorem witness_InvMixColumnsInverts :
    wordOf (toBE 0x8e4da1bc000000000000000000000000) 0 = #v[0x8e, 0x4d, 0xa1, 0xbc] := by decide

/-- Loaded and empty slots for both selectors (also for DEC). -/
theorem witness_EncWritesCipher :
    loaded.key .d = some kdSchedule ∧ loaded.key .t = some ktSchedule ∧ State.reset.key .d = none ∧
      State.reset.key .t = none := ⟨rfl, rfl, rfl, rfl⟩

theorem witness_DecWritesInverseCipher :
    loaded.key .d = some kdSchedule ∧ State.reset.key .t = none := ⟨rfl, rfl⟩

/-- Operands at the borders: upper bytes zero with addends 0, 1 and the largest, and byte 8 or byte 15 nonzero. -/
theorem witness_CtraddAddsWithCarry :
    (∀ (i : Nat) (_ : i < 16), 8 ≤ i → (toBE 0xffffffffffffffff0000000000000000)[i] = 0) ∧ loaded.ctr = some 0 ∧
      le64Low (toBE 0) = 0 ∧ le64Low (toBE 0x01000000000000000000000000000000) = 1 ∧
      (State.reset.setCtr (BitVec.allOnes 128)).ctr = some (BitVec.allOnes 128) ∧ State.reset.ctr = none ∧
      (toBE 0x00000000000000000100000000000000)[8] ≠ 0 ∧ (toBE 0x01)[15] ≠ 0 := by
  have e : ∀ i : Fin 16, 8 ≤ i.val → (toBE 0xffffffffffffffff0000000000000000)[i.val] = 0 := by decide
  exact ⟨fun i h h8 => e ⟨i, h⟩ h8, rfl, by decide, by decide, rfl, rfl, by decide, by decide⟩

theorem witness_CtrrdReadsCounter :
    loaded.ctr = some 0 ∧ State.reset.ctr = none ∧
      exec (.ctrld zeroBlock) State.reset = .next ((State.reset.setCtr (le128 zeroBlock)).respond .ok) := ⟨rfl, rfl, rfl⟩

theorem witness_TweakBlockBytes : 0 < 8 ∧ 7 < 8 := by decide

theorem witness_DoubleMultipliesByX : 0 < 128 ∧ 7 < 128 ∧ 127 < 128 := by decide

theorem witness_TwrdReadsTweak : loaded.twk.isSome = true ∧ State.reset.twk = none := ⟨rfl, rfl⟩

/-- The three cases of TWGEN: both there, no key, key without counter. -/
theorem witness_TwgenDerivesTweak :
    (loaded.ks1 = some ktSchedule ∧ loaded.ctr = some 0) ∧ State.reset.ks1 = none ∧
      ((State.reset.setKey .t ktSchedule).ks1 = some ktSchedule ∧ (State.reset.setKey .t ktSchedule).ctr = none) :=
  ⟨⟨rfl, rfl⟩, rfl, rfl, rfl⟩

theorem witness_TwdblDoublesTweak : loaded.twk.isSome = true ∧ State.reset.twk = none := ⟨rfl, rfl⟩

/-- The three cases of XTSE and XTSD: both there, no key, key without tweak. -/
theorem witness_XtseEncryptsUnit :
    (loaded.ks0 = some kdSchedule ∧ loaded.twk.isSome = true) ∧ State.reset.ks0 = none ∧
      ((State.reset.setKey .d kdSchedule).ks0 = some kdSchedule ∧ (State.reset.setKey .d kdSchedule).twk = none) :=
  ⟨⟨rfl, rfl⟩, rfl, rfl, rfl⟩

theorem witness_XtsdDecryptsUnit :
    (loaded.ks0 = some kdSchedule ∧ loaded.twk.isSome = true) ∧ State.reset.ks0 = none ∧
      ((State.reset.setKey .d kdSchedule).ks0 = some kdSchedule ∧ (State.reset.setKey .d kdSchedule).twk = none) :=
  ⟨⟨rfl, rfl⟩, rfl, rfl, rfl⟩

/-- Two different states with equal KS[0] and equal TWK. -/
theorem witness_UnitInversion :
    loaded.ks0 = some kdSchedule ∧ (loaded.setCtr 1).ks0 = some kdSchedule ∧
      loaded.twk = some (toBE 0x7df76b0c1ab899b33e42f047b91b546f) ∧
      (loaded.setCtr 1).twk = some (toBE 0x7df76b0c1ab899b33e42f047b91b546f) := ⟨rfl, rfl, rfl, rfl⟩

theorem witness_SavedStreamIsRestored :
    loaded.ctr = some 0 ∧ loaded.twk = some (toBE 0x7df76b0c1ab899b33e42f047b91b546f) := ⟨rfl, rfl⟩

/-- A sector of one unit, started from its first unit and from its end. -/
theorem witness_RandomAccessByDoubling :
    (runCommands (.twgen :: [zeroBlock].map (unitCommand .encrypt)) loaded).isSome = true ∧ 0 ≤ [zeroBlock].length ∧
      1 ≤ [zeroBlock].length := by decide +kernel

/-- A call of two units with a skip inside a sector, and one with an empty buffer. -/
theorem witness_ValidCallCompletes :
    Call.valid ⟨List.replicate 32 0, .encrypt, 5, 64, 32⟩ = true ∧ Call.valid ⟨[], .encrypt, 5, 64, 0⟩ = true ∧
      loaded.ks0 = some kdSchedule ∧ loaded.ks1 = some ktSchedule := ⟨by decide, by decide, rfl, rfl⟩

theorem witness_CallRoundTrip :
    Call.valid ⟨List.replicate 32 0, .encrypt, 5, 64, 32⟩ = true ∧
      (Call.mk (List.replicate 32 0) .encrypt 5 64 32).direction = .encrypt ∧
      loaded.ks0 = some kdSchedule ∧ loaded.ks1 = some ktSchedule ∧
      (loaded.setCtr 1).ks0 = some kdSchedule ∧ (loaded.setCtr 1).ks1 = some ktSchedule :=
  ⟨by decide, rfl, rfl, rfl, rfl, rfl⟩

/-- Numbers on both sides of each bound, and a counter to add to. -/
theorem witness_NumberOperandsAssemble :
    2 ^ 64 - 1 < 2 ^ 64 ∧ 2 ^ 64 ≤ 2 ^ 64 ∧ 2 ^ 128 - 1 < 2 ^ 128 ∧ 2 ^ 128 ≤ 2 ^ 128 ∧ loaded.ctr = some 0 := by
  refine ⟨?_, ?_, ?_, ?_, rfl⟩ <;> norm_num

theorem witness_PseudoInstructionsExpand : 2 ^ 128 - 1 < 2 ^ 128 := by norm_num

end Sys2Proof.Tests
end

section
/-! The step at a host's command (00_scope.md R11, 20_memory.md R45). -/

namespace Sys2Proof.Machine

/-- The later of two host lists stands. -/
@[simp] theorem State.withHost_withHost (s : State) (l l' : List Event) : (s.withHost l).withHost l' = s.withHost l' := rfl

/-- Giving a state the host list it has changes nothing. -/
@[simp] theorem State.withHost_host_self (s : State) : s.withHost s.host = s := rfl

/-- The host list after a command is placed. -/
@[simp] theorem State.withFetchWord_host (s : State) (nbits w : Nat) :
    (s.withFetchWord nbits w).host = .command (tableRequest nbits w) :: s.host := rfl

/-- Moving past a placed command gives back the state it was placed in. -/
@[simp] theorem State.withFetchWord_withHost (s : State) (nbits w : Nat) :
    (s.withFetchWord nbits w).withHost s.host = s := by
  simp [State.withFetchWord]

/-- A step at a host's command performs it in the state whose host list has moved past it. -/
theorem step_of_command {s : State} {r : Request} {rest : List Event} (h : s.host = .command r :: rest) :
    step s = perform r (s.withHost rest) := by
  simp [step, serve, h]

/-- A step performs the command just placed, in the state it was placed in. -/
theorem step_withFetchWord (s : State) (nbits w : Nat) :
    step (s.withFetchWord nbits w) = perform (tableRequest nbits w) s := by
  rw [step_of_command (s.withFetchWord_host nbits w), State.withFetchWord_withHost]

/-- Settles O1: the step performs the command at the head of the host list, and performing follows what the decoder answers. -/
theorem stepPerformsNextCommand : Obligations.StepPerformsNextCommand := by
  intro s r rest h
  refine ⟨fun i hi => ?_, fun c hc => ?_, step_withFetchWord s⟩
  · rw [step_of_command h, perform_of_ok hi]
  · rw [step_of_command h, perform_of_error hc, rejected]

end Sys2Proof.Machine
end

section
/-! What a command writes, and what a step of the block can be (10_state.md R20-R25, 00_scope.md R11). -/

namespace Sys2Proof.Machine

variable {s t u : State} {i : Instr}

/-- The writes of a completed command (the writer columns of 10_state.md R20 and the meanings they cite): from `s`, the
instruction makes the state that is then answered with OK. -/
inductive Writes (s : State) : Instr → State → Prop
  | nop : Writes s .nop s
  | keyld {slot key} : Writes s (.keyld slot key) (s.setKey slot (keyExpansion key))
  | enc {slot B K} (hK : s.key slot = some K) : Writes s (.enc slot B) (s.setRes (cipher K B))
  | dec {slot B K} (hK : s.key slot = some K) : Writes s (.dec slot B) (s.setRes (invCipher K B))
  | ctrld {B} : Writes s (.ctrld B) (s.setCtr (le128 B))
  | ctradd {B x} (hB : upperZero B = true) (hx : s.ctr = some x) :
      Writes s (.ctradd B) (s.setCtr (add128 x (le64Low B)))
  | ctrrd {x} (hx : s.ctr = some x) : Writes s .ctrrd (s.setRes (toLE x))
  | twld {B} : Writes s (.twld B) (s.setTwk B)
  | twrd {T} (hT : s.twk = some T) : Writes s .twrd (s.setRes T)
  | twgen {K x} (hK : s.key .t = some K) (hx : s.ctr = some x) :
      Writes s .twgen (s.setTwk (cipher K (tweakBlock x)))
  | twdbl {T} (hT : s.twk = some T) : Writes s .twdbl (s.setTwk (double T))
  | xtse {B K T} (hK : s.key .d = some K) (hT : s.twk = some T) :
      Writes s (.xtse B) ((s.setRes (unitStep (cipher K) T B)).setTwk (double T))
  | xtsd {B K T} (hK : s.key .d = some K) (hT : s.twk = some T) :
      Writes s (.xtsd B) ((s.setRes (unitStep (invCipher K) T B)).setTwk (double T))
  | statrd : Writes s .statrd (s.setRes (toLE (s.status.zeroExtend 128)))

/-- A result is what `i` gives in `s`: a rejection with a code of R141 other than OK, or the completion of the writes of `i`. -/
def Performs (s : State) (i : Instr) (r : Result) : Prop :=
  (∃ c, c ≠ .ok ∧ r = rejected s c) ∨ ∃ u, Writes s i u ∧ r = complete u

theorem performs_rejected {c : Code} (h : c ≠ .ok) : Performs s i (rejected s c) := .inl ⟨c, h, rfl⟩

theorem performs_complete (h : Writes s i u) : Performs s i (complete u) := .inr ⟨u, h, rfl⟩

theorem performs_needKey {slot : Slot} {k : Schedule → Result}
    (h : ∀ K, s.key slot = some K → Performs s i (k K)) : Performs s i (needKey s slot k) := by
  unfold needKey
  split
  · exact performs_rejected (by decide)
  · exact h _ ‹_›

theorem performs_needCtr {k : Num128 → Result} (h : ∀ x, s.ctr = some x → Performs s i (k x)) :
    Performs s i (needCtr s k) := by
  unfold needCtr
  split
  · exact performs_rejected (by decide)
  · exact h _ ‹_›

theorem performs_needTwk {k : Block → Result} (h : ∀ T, s.twk = some T → Performs s i (k T)) :
    Performs s i (needTwk s k) := by
  unfold needTwk
  split
  · exact performs_rejected (by decide)
  · exact h _ ‹_›

/-- Every command is rejected, or makes its writes and completes. -/
theorem exec_performs (i : Instr) (s : State) : Performs s i (exec i s) := by
  cases i with
  | nop => exact performs_complete .nop
  | keyld => exact performs_complete .keyld
  | enc => exact performs_needKey fun _ hK => performs_complete (.enc hK)
  | dec => exact performs_needKey fun _ hK => performs_complete (.dec hK)
  | ctrld => exact performs_complete .ctrld
  | ctradd =>
    simp only [exec, execCtradd]
    split
    · exact performs_needCtr fun _ hx => performs_complete (.ctradd ‹_› hx)
    · exact performs_rejected (by decide)
  | ctrrd => exact performs_needCtr fun _ hx => performs_complete (.ctrrd hx)
  | twld => exact performs_complete .twld
  | twrd => exact performs_needTwk fun _ hT => performs_complete (.twrd hT)
  | twgen => exact performs_needKey fun _ hK => performs_needCtr fun _ hx => performs_complete (.twgen hK hx)
  | twdbl => exact performs_needTwk fun _ hT => performs_complete (.twdbl hT)
  | xtse => exact performs_needKey fun _ hK => performs_needTwk fun _ hT => performs_complete (.xtse hK hT)
  | xtsd => exact performs_needKey fun _ hK => performs_needTwk fun _ hT => performs_complete (.xtsd hK hT)
  | statrd => exact performs_complete .statrd

/-- The next state of a command: a rejection in the state before it, or the completion of its writes. -/
theorem exec_eq_next (h : exec i s = .next t) :
    (∃ c, c ≠ .ok ∧ t = s.reject c) ∨ ∃ u, Writes s i u ∧ t = u.respond .ok := by
  obtain ⟨c, hc, e⟩ | ⟨u, hu, e⟩ := exec_performs i s
  · exact .inl ⟨c, hc, (rejected_eq_next c).1 (e.symm.trans h)⟩
  · exact .inr ⟨u, hu, complete_eq_next.1 (e.symm.trans h)⟩

/-- The next state of a command is a rejection or a completion. -/
theorem exec_answer (h : exec i s = .next t) : Answer s t := by
  obtain ⟨_, e, ha⟩ := exec_answers i s
  cases e.symm.trans h
  exact ha

/-- The decoder rejects with a code other than OK (30_encoding.md R54). -/
theorem decode_error_ne_ok {r : Request} {c : Code} (h : decode r = .error c) : c ≠ .ok := by
  unfold decode at h
  split at h
  · cases h; decide
  · split at h <;> cases h
    decide

/-- Performing a request that answers a next state rejects it with a code other than OK, or runs the instruction it decodes to. -/
theorem perform_eq_next {r : Request} (h : perform r s = .next t) :
    (∃ c, c ≠ .ok ∧ t = s.reject c) ∨ ∃ i, decode r = .ok i ∧ exec i s = .next t := by
  cases hd : decode r with
  | error c => exact .inl ⟨c, decode_error_ne_ok hd, (rejected_eq_next c).1 (perform_of_error hd ▸ h)⟩
  | ok i => exact .inr ⟨i, rfl, perform_of_ok hd ▸ h⟩

/-- Whatever request is performed, the next state is a rejection or a completion. -/
theorem perform_answer {r : Request} (h : perform r s = .next t) : Answer s t := by
  obtain hrej | ⟨i, -, h⟩ := perform_eq_next h
  · exact .inl hrej
  · exact exec_answer h

/-! ### Which writes change a register (10_state.md R20) -/

/-- Only KEYLD writes the schedule of a slot, with the expansion of its operand (R21). -/
theorem Writes.key_eq (h : Writes s i u) (slot : Slot) :
    u.key slot = s.key slot ∨ ∃ key, i = .keyld slot key ∧ u.key slot = some (keyExpansion key) := by
  cases h with
  | @keyld slot' key =>
    by_cases e : slot = slot'
    · exact .inr ⟨key, by simp [e]⟩
    · exact .inl (by simp [e])
  | _ => exact .inl (by simp)

/-- Only CTRLD and CTRADD write the counter (R23). -/
theorem Writes.ctr_eq (h : Writes s i u) : u.ctr = s.ctr ∨ (∃ B, i = .ctrld B) ∨ ∃ B, i = .ctradd B := by
  cases h with
  | ctrld => exact .inr (.inl ⟨_, rfl⟩)
  | ctradd => exact .inr (.inr ⟨_, rfl⟩)
  | _ => exact .inl (by simp)

/-- Only TWLD, TWGEN, TWDBL and the unit commands write the tweak (R24). -/
theorem Writes.twk_eq (h : Writes s i u) :
    u.twk = s.twk ∨ (∃ B, i = .twld B) ∨ i = .twgen ∨ i = .twdbl ∨ (∃ B, i = .xtse B) ∨ ∃ B, i = .xtsd B := by
  cases h with
  | twld => exact .inr (.inl ⟨_, rfl⟩)
  | twgen => exact .inr (.inr (.inl rfl))
  | twdbl => exact .inr (.inr (.inr (.inl rfl)))
  | xtse => exact .inr (.inr (.inr (.inr (.inl ⟨_, rfl⟩))))
  | xtsd => exact .inr (.inr (.inr (.inr (.inr ⟨_, rfl⟩))))
  | _ => exact .inl (by simp)

/-- Only ENC, DEC, the reads and the unit commands write the result (R25). -/
theorem Writes.res_eq (h : Writes s i u) :
    u.res = s.res ∨ (∃ k B, i = .enc k B) ∨ (∃ k B, i = .dec k B) ∨ i = .ctrrd ∨ i = .twrd ∨ (∃ B, i = .xtse B) ∨
      (∃ B, i = .xtsd B) ∨ i = .statrd := by
  cases h with
  | nop | keyld | ctrld | ctradd | twld | twgen | twdbl => exact .inl (by simp)
  | _ => exact .inr (by simp)

/-- No write touches what the host has yet to issue. -/
theorem Writes.host_eq (h : Writes s i u) : u.host = s.host := by
  cases h <;> simp

end Sys2Proof.Machine
end

section
/-! The invariant of the block's states (10_state.md R21, R27, R31; 60_exceptions.md R140). -/

namespace Sys2Proof.Machine

variable {s t : State}

/-- The state after reset meets the invariant, whatever the host does next. -/
theorem inv_afterReset (s : State) : s.afterReset.Inv where
  errorRecorded := by simp
  expanded := by simp
  lastAnswer := by simp
  untouched _ := rfl

/-- The invariant does not speak of what the host has yet to issue. -/
theorem State.Inv.withHost (h : s.Inv) (l : List Event) : (s.withHost l).Inv where
  errorRecorded := h.errorRecorded
  expanded slot K hK := h.expanded slot K (by simpa using hK)
  lastAnswer := h.lastAnswer
  untouched e := congrArg (·.withHost l) (h.untouched e)

/-- A rejection keeps the invariant: it records its own code. -/
theorem State.Inv.reject (h : s.Inv) {c : Code} (hc : c ≠ .ok) : (s.reject c).Inv where
  errorRecorded := by simpa using hc
  expanded slot K hK := h.expanded slot K (by simpa using hK)
  lastAnswer := by simp
  untouched e := by simp at e

/-- A completed command keeps the invariant as long as the schedules it leaves are expansions of keys. -/
theorem State.Inv.of_completes (h : s.Inv) (hc : Completes s t)
    (hk : ∀ slot K, t.key slot = some K → ∃ key, K = keyExpansion key) : t.Inv where
  errorRecorded := by rw [hc.err, hc.lastErr]; exact h.errorRecorded
  expanded := hk
  lastAnswer c e hne := absurd (Option.some.inj (hc.rsp.symm.trans e)).symm hne
  untouched e := by simp [hc.rsp] at e

/-- Every command leaves schedules that are expansions of keys (R21). -/
theorem exec_expanded {i : Instr} (h : s.Inv) (he : exec i s = .next t) (slot : Slot) (K : Schedule)
    (hK : t.key slot = some K) : ∃ key, K = keyExpansion key := by
  obtain ⟨c, -, rfl⟩ | ⟨u, hw, rfl⟩ := exec_eq_next he
  · exact h.expanded slot K (by simpa using hK)
  · rw [State.respond_key] at hK
    obtain e | ⟨key, -, e⟩ := hw.key_eq slot
    · exact h.expanded slot K (e ▸ hK)
    · exact ⟨key, Option.some.inj (hK.symm.trans e)⟩

/-- Every command keeps the invariant. -/
theorem State.Inv.exec {i : Instr} (h : s.Inv) (he : exec i s = .next t) : t.Inv := by
  obtain ⟨c, hc, rfl⟩ | hc := exec_answer he
  · exact h.reject hc
  · exact h.of_completes hc (exec_expanded h he)

/-- Every performed request keeps the invariant. -/
theorem State.Inv.perform {r : Request} (h : s.Inv) (hp : perform r s = .next t) : t.Inv := by
  obtain ⟨c, hc, rfl⟩ | ⟨i, -, he⟩ := perform_eq_next hp
  · exact h.reject hc
  · exact h.exec he

/-- Settles O11: the reset state is its own state after reset. -/
theorem resetMeetsInvariant : Obligations.ResetMeetsInvariant := inv_afterReset State.reset

/-- Settles O12, by what a step can be: idle, a reset, or a performed request. -/
theorem stepKeepsInvariant : Obligations.StepKeepsInvariant := by
  intro s t h hs
  obtain ⟨-, rfl⟩ | ⟨_, rest, -, rfl⟩ | ⟨r, rest, -, hp⟩ := step_eq_next hs
  · exact h
  · exact inv_afterReset _
  · exact (h.withHost rest).perform hp

end Sys2Proof.Machine
end

section
/-! Reset, the writers of each register and its valid bit (10_state.md R20, R26, R31). -/

namespace Sys2Proof.Machine

/-- Settles O9: every field of the fixed reset state, and STATUS computed from them. -/
theorem resetLeavesNoValue : Obligations.ResetLeavesNoValue := by
  unfold Obligations.ResetLeavesNoValue
  decide

/-- Settles O15: a rejection writes no register, and a completed command writes only those of the register table. -/
theorem onlyListedCommandsWrite : Obligations.OnlyListedCommandsWrite := by
  intro i s t h
  obtain ⟨c, -, rfl⟩ | ⟨u, hw, rfl⟩ := exec_eq_next h
  · simp
  · have writer (slot : Slot) (ne : u.key slot ≠ s.key slot) : ∃ key, i = .keyld slot key := by
      obtain ⟨key, e, -⟩ := (hw.key_eq slot).resolve_left ne
      exact ⟨key, e⟩
    exact ⟨writer .d, writer .t, hw.ctr_eq.resolve_left, hw.twk_eq.resolve_left, hw.res_eq.resolve_left, hw.host_eq⟩

/-- An answered command clears no valid bit. -/
theorem Answer.keeps_valid {s t : State} (h : Answer s t) :
    (s.k0v = true → t.k0v = true) ∧ (s.k1v = true → t.k1v = true) ∧ (s.cv = true → t.cv = true) ∧
      (s.tv = true → t.tv = true) ∧ (s.rv = true → t.rv = true) := by
  obtain ⟨c, -, rfl⟩ | hc := h
  · exact ⟨id, id, id, id, id⟩
  · exact ⟨hc.ks0, hc.ks1, hc.ctr, hc.twk, hc.res⟩

/-- Settles O14: a step that serves no reset is idle or answers a command. -/
theorem validBitsClearedOnlyByReset : Obligations.ValidBitsClearedOnlyByReset := by
  intro s t hr hs
  obtain ⟨-, rfl⟩ | ⟨a, rest, e, -⟩ | ⟨r, rest, -, hp⟩ := step_eq_next hs
  · exact ⟨id, id, id, id, id⟩
  · exact absurd e (hr a rest)
  · exact (perform_answer hp).keeps_valid

end Sys2Proof.Machine
end

section
/-! The layout of STATUS (10_state.md R27). -/

namespace Sys2Proof.Machine

variable (s : State)

/-- The valid bits, from bit 0 up. -/
theorem State.validBits_getLsbD {k : Nat} (h : k < 5) :
    s.validBits.getLsbD k = [s.k0v, s.k1v, s.cv, s.tv, s.rv][k] := by
  change BitVec.getLsbD (w := 1 + 1 + 1 + 1 + 1) (BitVec.ofBool s.rv ++ BitVec.ofBool s.tv ++ BitVec.ofBool s.cv ++
    BitVec.ofBool s.k1v ++ BitVec.ofBool s.k0v) k = _
  simp only [BitVec.getLsbD_append, BitVec.getLsbD_ofBool]
  interval_cases k <;> rfl

/-- The bits of STATUS, field by field: the valid bits, LASTERR and ERR, and zeros between them and above. -/
theorem State.status_getLsbD (k : Nat) :
    s.status.getLsbD k =
      if k < 5 then s.validBits.getLsbD k
      else if 8 ≤ k ∧ k < 12 then (codeBits s.lastErr).getLsbD (k - 8)
      else if k = 15 then s.err else false := by
  change BitVec.getLsbD (w := 16 + 1 + 3 + 4 + 3 + 5)
    (0#16 ++ BitVec.ofBool s.err ++ 0#3 ++ codeBits s.lastErr ++ 0#3 ++ s.validBits) k = _
  simp only [BitVec.getLsbD_append, BitVec.getLsbD_zero, BitVec.getLsbD_ofBool]
  grind

/-- Bits 4:0 of STATUS are the valid bits. -/
theorem State.status_getLsbD_of_lt_five {k : Nat} (h : k < 5) :
    s.status.getLsbD k = [s.k0v, s.k1v, s.cv, s.tv, s.rv][k] := by
  rw [State.status_getLsbD, if_pos h, State.validBits_getLsbD s h]

/-- Bits 11:8 of STATUS are the code of LASTERR. -/
theorem State.status_lastErr : s.status.extractLsb' 8 4 = codeBits s.lastErr := by
  apply BitVec.eq_of_getLsbD_eq
  intro k hk
  have h5 : ¬ 8 + k < 5 := by omega
  have h12 : 8 + k < 12 := by omega
  simp [State.status_getLsbD, hk, h5, h12]

/-- A bit of STATUS outside its fields is 0. -/
theorem State.status_reserved {k : Nat} (h : (0xFFFF70E0#32).getLsbD k = true) : s.status.getLsbD k = false := by
  have hk : k < 32 := BitVec.lt_of_getLsbD h
  rw [State.status_getLsbD]
  interval_cases k <;> simp at h ⊢

/-- The codes of R141 are 0 to 6. -/
theorem codeBits_le_six (c : Code) : (codeBits c).toNat ≤ 6 := by
  cases c <;> decide

/-- Settles O13: the bits of STATUS are those of its fields, and a bit that the mask keeps is in none of them. -/
theorem statusLayout : Obligations.StatusLayout := by
  intro s
  have valid (k : Nat) (h : k < 5) := s.status_getLsbD_of_lt_five h
  refine ⟨valid 0 (by decide), valid 1 (by decide), valid 2 (by decide), valid 3 (by decide), valid 4 (by decide),
    s.status_getLsbD 15, s.status_lastErr, codeBits_le_six _, ?_⟩
  apply BitVec.eq_of_getLsbD_eq
  intro k _
  cases h : (0xFFFF70E0#32).getLsbD k
  · simp [h]
  · simp [s.status_reserved h]

end Sys2Proof.Machine
end

section
/-! Decoding inverts encoding, and which command words select a command (30_encoding.md R50, R52-R55). -/

namespace Sys2Proof

open Machine (State assignedOpcodes selectorOpcodes perform exec perform_of_ok perform_of_error)

variable {r : Request} {i : Instr}

/-! ### The rows of the opcode map -/

/-- The assigned opcodes are those that have a row. -/
theorem mem_assignedOpcodes {opc : Byte} : opc ∈ assignedOpcodes ↔ ∃ row, rowOf opc = some row := by
  have column : assignedOpcodes = opcodeMap.map (·.opc) := rfl
  rw [← Option.isSome_iff_exists, rowOf, List.find?_isSome, column, List.mem_map]
  simp

/-- A row takes a selector exactly when its opcode is KEYLD's, ENC's or DEC's. -/
theorem rowOf_selector {opc : Byte} {row : OpcodeRow} (h : rowOf opc = some row) :
    row.selector = decide (opc ∈ selectorOpcodes) := by
  have column : ∀ row ∈ opcodeMap, row.selector = decide (row.opc ∈ selectorOpcodes) := by decide
  obtain ⟨hmem, rfl⟩ := rowOf_eq_some h
  exact column row hmem

/-- The command that a row makes has the row's opcode, the KSEL it was made from, and the operand if it reads one. -/
theorem fields_of_make {row : OpcodeRow} (hrow : row ∈ opcodeMap) {ksel : BitVec 1}
    (hk : ksel = 1 → row.selector = true) (B : Block) :
    opcodeOf (row.make (slotOf ksel) B) = row.opc ∧ selectorOf (row.make (slotOf ksel) B) = ksel ∧
      (readsOperand (row.make (slotOf ksel) B) = true → operandOf (row.make (slotOf ksel) B) = B) := by
  obtain rfl | rfl := BitVec.eq_zero_or_eq_one ksel <;>
    fin_cases hrow <;> simp [opcodeOf, selectorOf, readsOperand, operandOf, slotOf] at hk ⊢

/-- The row of an instruction's opcode makes the instruction from its KSEL and its operand, or from any operand where the
instruction reads none. -/
theorem rowOf_opcodeOf (i : Instr) :
    ∃ row, rowOf (opcodeOf i) = some row ∧ (selectorOf i = 1 → row.selector = true) ∧
      ∀ B, (readsOperand i = true → B = operandOf i) → row.make (slotOf (selectorOf i)) B = i := by
  cases i with
  | keyld slot | enc slot | dec slot =>
    cases slot <;> exact ⟨_, rfl, fun _ => rfl, fun B hB => hB rfl ▸ rfl⟩
  | ctrld | ctradd | twld | xtse | xtsd => exact ⟨_, rfl, nofun, fun B hB => hB rfl ▸ rfl⟩
  | nop | ctrrd | twrd | twgen | twdbl | statrd => exact ⟨_, rfl, nofun, fun _ _ => rfl⟩

/-! ### Decoding inverts encoding -/

/-- A request with the CMD word of an instruction decodes to it, with the operand ignored where the instruction reads none. -/
theorem decode_of_encoding (hc : r.cmd = (encode i).cmd) (ho : readsOperand i = true → r.opnd = (encode i).opnd) :
    decode r = .ok i := by
  obtain ⟨row, hrow, hsel, hmake⟩ := rowOf_opcodeOf i
  have fields : opcOf r.cmd = opcodeOf i ∧ rsvdOf r.cmd = 0 ∧ kselOf r.cmd = selectorOf i := by simp [hc, encode]
  obtain ⟨eo, er, ek⟩ := fields
  exact decode_eq_ok.2 ⟨row, eo ▸ hrow, er, ek ▸ hsel, ek ▸ (hmake r.opnd ho).symm⟩

/-- A request that decodes to an instruction is an encoding of it. -/
theorem encoding_of_decode (h : decode r = .ok i) :
    r.cmd = (encode i).cmd ∧ (readsOperand i = true → r.opnd = (encode i).opnd) := by
  obtain ⟨row, hrow, h0, hsel, rfl⟩ := decode_eq_ok.1 h
  obtain ⟨hmem, hopc⟩ := rowOf_eq_some hrow
  obtain ⟨eo, ek, ho⟩ := fields_of_make hmem hsel r.opnd
  refine ⟨?_, fun hr => (ho hr).symm⟩
  calc r.cmd = cmdWord (kselOf r.cmd) (opcOf r.cmd) := cmd_eq_cmdWord r.cmd h0
    _ = (encode (row.make (slotOf (kselOf r.cmd)) r.opnd)).cmd := by rw [encode, eo, ek, hopc]

/-- Settles O3: what a row of the opcode map makes has the fields it was made from, and each instruction is made by a row. -/
theorem decodeInvertsEncode : Obligations.DecodeInvertsEncode := fun _ _ =>
  ⟨encoding_of_decode, fun ⟨hc, ho⟩ => decode_of_encoding hc ho⟩

/-- Settles O2: each of the words is the CMD word of its command's encoding. -/
theorem writtenWordsDecode : Obligations.WrittenWordsDecode := by
  intro B
  refine ⟨?_, ?_, ?_, ?_, ?_, ?_, ?_⟩ <;>
    exact decode_of_encoding (by simp [encode, cmdWord, selectorOf, opcodeOf]) (by simp [encode, readsOperand, operandOf])

/-! ### The legal command words -/

/-- The fields of CMD select a command (R52): RSVD is 0, OPC is assigned, and KSEL is 0 or OPC takes a selector. -/
abbrev LegalFields (cmd : Word) : Prop :=
  rsvdOf cmd = 0 ∧ opcOf cmd ∈ assignedOpcodes ∧ (kselOf cmd = 0 ∨ opcOf cmd ∈ selectorOpcodes)

/-- The column "CMD value(s)" of R52. -/
def legalWords : List Word :=
  [0x00000000, 0x00000001, 0x00000101, 0x00000002, 0x00000102, 0x00000003, 0x00000103, 0x00000010,
    0x00000011, 0x00000012, 0x00000020, 0x00000021, 0x00000022, 0x00000023, 0x00000030, 0x00000031,
    0x000000F0]

/-- A request decodes exactly when the fields of its CMD word are legal. -/
theorem exists_decode_iff_legalFields : (∃ i, decode r = .ok i) ↔ LegalFields r.cmd := by
  constructor
  · rintro ⟨i, h⟩
    obtain ⟨row, hrow, h0, hsel, -⟩ := decode_eq_ok.1 h
    refine ⟨h0, mem_assignedOpcodes.2 ⟨row, hrow⟩, (kselOf_cases r.cmd).imp_right fun h1 => ?_⟩
    simpa [rowOf_selector hrow] using hsel h1
  · rintro ⟨h0, hopc, hsel⟩
    obtain ⟨row, hrow⟩ := mem_assignedOpcodes.1 hopc
    refine ⟨_, decode_eq_ok.2 ⟨row, hrow, h0, fun h1 => ?_, rfl⟩⟩
    simpa [rowOf_selector hrow, h1] using hsel

/-- The words with legal fields are the listed ones. -/
theorem legalFields_iff_mem_legalWords (cmd : Word) : LegalFields cmd ↔ cmd ∈ legalWords := by
  constructor
  · rintro ⟨h0, hopc, hsel⟩
    have listed : ∀ opc ∈ assignedOpcodes, ∀ ksel : BitVec 1, ksel = 0 ∨ opc ∈ selectorOpcodes →
        cmdWord ksel opc ∈ legalWords := by decide
    rw [cmd_eq_cmdWord cmd h0]
    exact listed _ hopc _ hsel
  · intro h
    fin_cases h <;> decide

/-- Settles O4: a decoded word has legal fields, and the 17 listed words are those that such fields make. -/
theorem seventeenLegalCommandWords : Obligations.SeventeenLegalCommandWords := fun cmd _ =>
  ⟨exists_decode_iff_legalFields, exists_decode_iff_legalFields.trans (legalFields_iff_mem_legalWords cmd)⟩

/-! ### Rejected command words -/

/-- An unassigned opcode is rejected with E_OPC, whatever the other fields hold (R54). -/
theorem decode_of_unassigned (h : opcOf r.cmd ∉ assignedOpcodes) : decode r = .error .eOpc := by
  have hnone : rowOf (opcOf r.cmd) = none := by simpa [mem_assignedOpcodes, Option.eq_none_iff_forall_ne_some] using h
  simp [decode, hnone]

/-- An assigned opcode with a reserved bit set, or with KSEL = 1 where it takes no selector, is rejected with E_RSVD (R53, R54). -/
theorem decode_of_reserved (h : opcOf r.cmd ∈ assignedOpcodes)
    (hr : rsvdOf r.cmd ≠ 0 ∨ (kselOf r.cmd = 1 ∧ opcOf r.cmd ∉ selectorOpcodes)) : decode r = .error .eRsvd := by
  obtain ⟨row, hrow⟩ := mem_assignedOpcodes.1 h
  simp only [decode, hrow, rowOf_selector hrow, decide_eq_false_iff_not, if_pos hr]

/-- NOP is the word 0x00000000 and no other. -/
theorem decode_eq_nop : decode r = .ok .nop ↔ r.cmd = 0x00000000 := by
  have word : (encode .nop).cmd = 0x00000000 := by decide
  rw [decodeInvertsEncode r .nop, word]
  simp [readsOperand]

/-- Settles O5: a word is decoded by its opcode, then by its reserved bits, and what is left has legal fields. -/
theorem everyCommandWordIsDecoded : Obligations.EveryCommandWordIsDecoded := by
  intro s r
  refine ⟨fun h => perform_of_error (decode_of_unassigned h),
    fun h hr => perform_of_error (decode_of_reserved h hr), fun h h0 hsel => ?_, decode_eq_nop⟩
  obtain ⟨i, hi⟩ := exists_decode_iff_legalFields.2 ⟨h0, h, hsel⟩
  exact ⟨i, hi, perform_of_ok hi⟩

end Sys2Proof
end

section
/-! Number operands and the pseudo-instructions of the assembler (30_encoding.md R57, R58), and the counter commands
they assemble to (41_counter.md R100-R103). -/

namespace Sys2Proof.Machine

/-! ### The adder (R100) -/

/-- LO is the number modulo 2^64 (R23). -/
theorem toNat_lowLane (x : Num128) : (lowLane x).toNat = x.toNat % 2 ^ 64 := by
  simp [lowLane]

/-- HI is the number divided by 2^64 (R23). -/
theorem toNat_highLane (x : Num128) : (highLane x).toNat = x.toNat / 2 ^ 64 := by
  have hx : x.toNat < 2 ^ 128 := x.isLt
  rw [highLane, BitVec.extractLsb'_toNat, Nat.shiftRight_eq_div_pow]
  omega

/-- The number of a high and a low lane. -/
theorem toNat_lanes (hi lo : Lane) : (hi ++ lo).toNat = 2 ^ 64 * hi.toNat + lo.toNat := by
  rw [BitVec.toNat_append, Nat.shiftLeft_eq, Nat.mul_comm, Nat.two_pow_add_eq_or_of_lt lo.isLt]

/-- A lane sum is below its first term exactly when it wrapped. -/
theorem lane_add_lt_iff (l n : Lane) : l + n < l ↔ 2 ^ 64 ≤ l.toNat + n.toNat := by
  bv_omega

/-- `Add128` is addition modulo 2^128 of the zero-extended addend: the carry of the low lane goes into the high lane. -/
theorem add128_eq_add (x : Num128) (n : Lane) : add128 x n = x + n.setWidth 128 := by
  apply BitVec.eq_of_toNat_eq
  have hx : x.toNat < 2 ^ 128 := x.isLt
  have hn : n.toNat < 2 ^ 64 := n.isLt
  have sum : (x + n.setWidth 128).toNat = (x.toNat + n.toNat) % 2 ^ 128 := by simp
  rw [add128, toNat_lanes, sum, BitVec.toNat_add, toNat_lowLane]
  split
  · have h := (lane_add_lt_iff _ _).1 ‹_›
    have one : (1 : Lane).toNat = 1 := rfl
    simp only [BitVec.toNat_add, toNat_lowLane, toNat_highLane, one] at h ⊢
    omega
  · have h := mt (lane_add_lt_iff _ _).2 ‹_›
    simp only [toNat_lowLane, toNat_highLane] at h ⊢
    omega

/-! ### The operand of CTRADD (R103) -/

/-- The low lane of a Block is the low lane of its little-endian number. -/
theorem le64Low_eq_lowLane (B : Block) : le64Low B = lowLane (le128 B) := by
  apply BitVec.eq_of_getLsbD_eq
  intro k hk
  rw [lowLane, BitVec.getLsbD_extractLsb', decide_eq_true hk, Bool.true_and, Nat.zero_add]
  simp only [le64Low, le128, BitVec.getLsbD_append]
  interval_cases k <;> rfl

/-- The operand check of CTRADD, byte by byte. -/
theorem upperZero_iff (B : Block) : upperZero B = true ↔ ∀ (i : Nat) (_ : i < 16), 8 ≤ i → B[i] = 0 := by
  simp only [upperZero, Bool.and_eq_true, beq_iff_eq]
  constructor
  · intro h i hi h8
    interval_cases i <;> simp only [h]
  · intro h
    simp [h]

/-- Byte `i` of a number below `2^(8i)` is zero. -/
theorem toLE_getElem_eq_zero {x : Num128} {i : Nat} (hi : i < 16) (h : x.toNat < 2 ^ (8 * i)) : (toLE x)[i] = 0 := by
  apply BitVec.eq_of_toNat_eq
  rw [toLE_getElem, BitVec.extractLsb'_toNat, Nat.shiftRight_eq_zero _ _ h]
  rfl

/-- A number of one lane meets the operand check of CTRADD. -/
theorem upperZero_toLE {x : Num128} (h : x.toNat < 2 ^ 64) : upperZero (toLE x) = true :=
  (upperZero_iff _).2 fun i hi h8 =>
    toLE_getElem_eq_zero hi (h.trans_le (Nat.pow_le_pow_right (by decide) (by omega : 64 ≤ 8 * i)))

/-- A number of one lane is read back as the addend. -/
theorem setWidth_le64Low_toLE {x : Num128} (h : x.toNat < 2 ^ 64) : (le64Low (toLE x)).setWidth 128 = x := by
  apply BitVec.eq_of_toNat_eq
  rw [le64Low_eq_lowLane, le128_toLE, BitVec.toNat_setWidth, toNat_lowLane]
  omega

/-! ### What the assembled counter commands do -/

variable {s : State} {x : Num128} {n : Nat}

/-- CTRADD with a legal operand and a counter to add to (R103). -/
theorem exec_ctradd {B : Block} (hB : upperZero B = true) (hx : s.ctr = some x) :
    exec (.ctradd B) s = .next { s with ctr := some (x + (le64Low B).setWidth 128), rsp := some .ok } := by
  rw [exec, execCtradd, if_pos hB, needCtr_of_some hx, add128_eq_add]
  rfl

/-- CTRLD with the operand of a number loads the number (R102). -/
theorem exec_ctrld_toLE (s : State) (x : Num128) :
    exec (.ctrld (toLE x)) s = .next { s with ctr := some x, rsp := some .ok } := by
  rw [exec, execCtrld, le128_toLE]
  rfl

/-! ### The assembler's number operands (R57) -/

/-- A number within the bound is the operand's bytes, least significant first. -/
theorem asmNumber_of_lt {bound : Nat} (make : Block → Instr) (h : n < bound) :
    asmNumber bound make [.number n] = .ok [make (toLE (BitVec.ofNat 128 n))] := if_pos h

/-- A number from the bound on is refused. -/
theorem asmNumber_of_le {bound : Nat} (make : Block → Instr) (h : bound ≤ n) :
    asmNumber bound make [.number n] = .error .outOfRange := if_neg (Nat.not_lt.2 h)

/-- Settles O52: both names go to the number operand with their bound; an addend below 2^64 passes CTRADD's check and is
read back whole, and `LE128` inverts `toLE`. -/
theorem numberOperandsAssemble : Obligations.NumberOperandsAssemble := by
  intro n
  refine ⟨fun h => ⟨_, asmNumber_of_lt .ctradd h, ?_⟩, asmNumber_of_le .ctradd,
    fun h => ⟨_, asmNumber_of_lt .ctrld h, fun s => exec_ctrld_toLE s _⟩, asmNumber_of_le .ctrld⟩
  have small : (BitVec.ofNat 128 n).toNat < 2 ^ 64 := by
    rw [BitVec.toNat_ofNat]
    omega
  refine ⟨upperZero_toLE small, fun s x hx => ?_⟩
  rw [exec_ctradd (upperZero_toLE small) hx, setWidth_le64Low_toLE small]

/-- `SECTOR` with a number that fits the counter loads it and derives the tweak (R58). -/
theorem asmSector_of_lt (h : n < 2 ^ 128) :
    asmSector [.number n] = .ok [.ctrld (toLE (BitVec.ofNat 128 n)), .twgen] := if_pos h

/-- Settles O53: each name takes its own branch of the assembler, and only `SECTOR` checks its operand against a bound. -/
theorem pseudoInstructionsExpand : Obligations.PseudoInstructionsExpand := by
  intro kd kt n m hn
  exact ⟨rfl, rfl, asmSector_of_lt hn, rfl, rfl⟩

end Sys2Proof.Machine
end

section
/-! The field GF(2^8): bytes are sums of powers of x, and the product is determined by the products of the powers
(40_aes_core.md R60). -/

namespace Sys2Proof.Machine

/-! ### Additive maps of bytes -/

/-- A byte is the sum of the powers of x at its set bits. -/
theorem byte_eq_sum_powers (b : Byte) :
    b = ((List.finRange 8).map fun i => if b[i] then BitVec.twoPow 8 i else 0).foldr (· ^^^ ·) 0 := by
  revert b
  decide +kernel

/-- What holds of 0, of the powers of x, and of the sum of any two bytes it holds of, holds of every byte. -/
theorem byte_induction {P : Byte → Prop} (zero : P 0) (power : ∀ i : Fin 8, P (BitVec.twoPow 8 i))
    (sum : ∀ a b, P a → P b → P (a ^^^ b)) (b : Byte) : P b := by
  rw [byte_eq_sum_powers b]
  induction List.finRange 8 with
  | nil => exact zero
  | cons i is ih =>
    rw [List.map_cons, List.foldr_cons]
    refine sum _ _ ?_ ih
    split
    · exact power i
    · exact zero

/-- A map of bytes that respects the sum of the field. -/
def IsAdditive (f : Byte → Byte) : Prop := ∀ a b, f (a ^^^ b) = f a ^^^ f b

theorem IsAdditive.map_zero {f : Byte → Byte} (hf : IsAdditive f) : f 0 = 0 := by
  simpa using hf 0 0

/-- Additive maps that agree on the powers of x are equal. -/
theorem IsAdditive.eq_of_powers {f g : Byte → Byte} (hf : IsAdditive f) (hg : IsAdditive g)
    (h : ∀ i : Fin 8, f (BitVec.twoPow 8 i) = g (BitVec.twoPow 8 i)) (b : Byte) : f b = g b := by
  induction b using byte_induction with
  | zero => rw [hf.map_zero, hg.map_zero]
  | power i => exact h i
  | sum a b ha hb => rw [hf, hg, ha, hb]

theorem IsAdditive.comp {f g : Byte → Byte} (hf : IsAdditive f) (hg : IsAdditive g) : IsAdditive fun b => f (g b) :=
  fun a b => (congrArg f (hg a b)).trans (hf _ _)

theorem isAdditive_id : IsAdditive fun b => b := fun _ _ => rfl

/-- Choosing a byte or 0 respects the sum of the conditions. -/
theorem ite_xor_cond (p q : Bool) (a : Byte) :
    (if (p ^^ q) = true then a else 0) = (if p = true then a else 0) ^^^ if q = true then a else 0 := by
  cases p <;> cases q <;> simp

/-- Choosing a byte or 0 respects the sum of the bytes. -/
theorem ite_xor (p : Bool) (a b : Byte) :
    (if p = true then a ^^^ b else 0) = (if p = true then a else 0) ^^^ if p = true then b else 0 := by
  cases p <;> simp

theorem isAdditive_xtime : IsAdditive xtime := by
  intro a b
  rw [xtime, BitVec.shiftLeft_xor_distrib, BitVec.getElem_xor, ite_xor_cond, xtime, xtime]
  ac_rfl

/-! ### The loop of `mul` -/

/-- One turn of the loop adds the first factor where bit 0 of the second is set. -/
theorem gfMulLoop_succ (n : Nat) (p a b : Byte) :
    gfMulLoop (n + 1) p a b = gfMulLoop n (p ^^^ if b[0] then a else 0) (xtime a) (b >>> 1) := by
  rw [gfMulLoop]
  cases b[0] <;> simp

/-- The loop is additive in the partial product and the first factor. -/
theorem gfMulLoop_xor_left (n : Nat) (p q a a' b : Byte) :
    gfMulLoop n (p ^^^ q) (a ^^^ a') b = gfMulLoop n p a b ^^^ gfMulLoop n q a' b := by
  induction n generalizing p q a a' b with
  | zero => rfl
  | succ n ih =>
    simp only [gfMulLoop_succ, isAdditive_xtime a a', ite_xor, ← ih]
    congr 1
    ac_rfl

/-- The loop is additive in the partial product and the second factor. -/
theorem gfMulLoop_xor_right (n : Nat) (p q a b b' : Byte) :
    gfMulLoop n (p ^^^ q) a (b ^^^ b') = gfMulLoop n p a b ^^^ gfMulLoop n q a b' := by
  induction n generalizing p q a b b' with
  | zero => rfl
  | succ n ih =>
    simp only [gfMulLoop_succ, BitVec.ushiftRight_xor_distrib, BitVec.getElem_xor, ite_xor_cond, ← ih]
    congr 1
    ac_rfl

/-! ### The product -/

theorem gfMul_xor_left (a b c : Byte) : gfMul (a ^^^ b) c = gfMul a c ^^^ gfMul b c :=
  gfMulLoop_xor_left 8 0 0 a b c

theorem gfMul_xor_right (a b c : Byte) : gfMul a (b ^^^ c) = gfMul a b ^^^ gfMul a c :=
  gfMulLoop_xor_right 8 0 0 a b c

theorem isAdditive_gfMul (a : Byte) : IsAdditive (gfMul a) := gfMul_xor_right a

theorem isAdditive_gfMul_left (c : Byte) : IsAdditive fun a => gfMul a c := fun a b => gfMul_xor_left a b c

theorem gfMul_zero_left (a : Byte) : gfMul 0 a = 0 := (isAdditive_gfMul_left a).map_zero

theorem gfMul_one_left (a : Byte) : gfMul 1 a = a := (isAdditive_gfMul 1).eq_of_powers isAdditive_id (by decide) a

theorem gfMul_two_left (a : Byte) : gfMul 2 a = xtime a := (isAdditive_gfMul 2).eq_of_powers isAdditive_xtime (by decide) a

theorem gfMul_three_left (a : Byte) : gfMul 3 a = xtime a ^^^ a := by
  have three : (3 : Byte) = 2 ^^^ 1 := rfl
  rw [three, gfMul_xor_left, gfMul_two_left, gfMul_one_left]

/-- The product commutes, since products of powers of x do. -/
theorem gfMul_comm (a b : Byte) : gfMul a b = gfMul b a := by
  have powers : ∀ i j : Fin 8, gfMul (.twoPow 8 i) (.twoPow 8 j) = gfMul (.twoPow 8 j) (.twoPow 8 i) := by decide
  exact (isAdditive_gfMul a).eq_of_powers (isAdditive_gfMul_left a)
    (fun j => (isAdditive_gfMul_left _).eq_of_powers (isAdditive_gfMul _) (powers · j) a) b

/-- The product is associative, since products of powers of x are. -/
theorem gfMul_assoc (a b c : Byte) : gfMul (gfMul a b) c = gfMul a (gfMul b c) := by
  have powers : ∀ i j k : Fin 8, gfMul (gfMul (.twoPow 8 i) (.twoPow 8 j)) (.twoPow 8 k) =
      gfMul (.twoPow 8 i) (gfMul (.twoPow 8 j) (.twoPow 8 k)) := by decide +kernel
  induction a using byte_induction with
  | zero => simp only [gfMul_zero_left]
  | sum a a' ha ha' => simp only [gfMul_xor_left, ha, ha']
  | power i =>
    exact (isAdditive_gfMul _).eq_of_powers ((isAdditive_gfMul _).comp (isAdditive_gfMul b)) (fun k =>
      ((isAdditive_gfMul_left _).comp (isAdditive_gfMul _)).eq_of_powers
        ((isAdditive_gfMul _).comp (isAdditive_gfMul_left _)) (powers i · k) b) c

/-- Multiplying by x passes through a product. -/
theorem gfMul_xtime (a b : Byte) : gfMul a (xtime b) = xtime (gfMul a b) := by
  rw [← gfMul_two_left, ← gfMul_two_left, ← gfMul_assoc, gfMul_comm a, gfMul_assoc]

/-- Settles O20: the loop of `mul` is additive in each factor, so its other laws need only be seen on powers of x. -/
theorem fieldProduct : Obligations.FieldProduct := by
  intro a b c
  have one : gfMul a 1 = a := (gfMul_comm a 1).trans (gfMul_one_left a)
  exact ⟨one, gfMul_one_left a, gfMul_two_left a, gfMul_three_left a, gfMul_xtime a b, gfMul_xor_right a b c,
    gfMul_xor_left a b c⟩

end Sys2Proof.Machine
end

section
/-! The S-box, its inverse and the round constants (40_aes_core.md R61-R63). -/

namespace Sys2Proof.Machine

/-- The inverse of the affine map of the S-box. -/
def sboxAffineInv (y : Byte) : Byte := y.rotateLeft 1 ^^^ y.rotateLeft 3 ^^^ y.rotateLeft 6 ^^^ 0x05

/-- The affine map takes each byte's inverse image to the byte. -/
theorem sboxAffine_sboxAffineInv : ∀ y : Byte, sboxAffine (sboxAffineInv y) = y := by decide +kernel

/-- What the affine map takes to the table's entry of a nonzero byte is the byte's multiplicative inverse. -/
theorem gfMul_sboxAffineInv_sbox : ∀ a : Byte, a ≠ 0 → gfMul a (sboxAffineInv (sbox a)) = 1 := by decide +kernel

theorem sboxAffineInv_sbox_zero : sboxAffineInv (sbox 0) = 0 := by decide

/-- Settles O21, with the byte that the affine map takes to the table's entry. -/
theorem sboxIsAffineInverse : Obligations.SboxIsAffineInverse := fun a =>
  ⟨sboxAffineInv (sbox a), fun h => h ▸ sboxAffineInv_sbox_zero, gfMul_sboxAffineInv_sbox a,
    (sboxAffine_sboxAffineInv _).symm⟩

theorem invSbox_sbox : ∀ a : Byte, invSbox (sbox a) = a := by decide +kernel

theorem sbox_invSbox : ∀ a : Byte, sbox (invSbox a) = a := by decide +kernel

/-- Settles O22, entry by entry of the two tables. -/
theorem inverseSboxInverts : Obligations.InverseSboxInverts := fun a => ⟨invSbox_sbox a, sbox_invSbox a⟩

/-- Settles O23, constant by constant of the table. -/
theorem roundConstants : Obligations.RoundConstants := by
  refine ⟨rfl, fun j h1 h10 => ?_, fun _ => rfl⟩
  interval_cases j <;> decide

end Sys2Proof.Machine
end

section
/-! Key expansion, word by word (40_aes_core.md R64-R66). -/

namespace Sys2Proof.Machine

@[simp] theorem wordOf_getElem (B : Block) (c : Fin 4) (j : Nat) (h : j < 4) : (wordOf B c)[j] = B[4 * c.val + j] := by
  simp [wordOf]

/-- The words of a round key made of four words. -/
theorem wordOf_ofWords (w0 w1 w2 w3 : AesWord) (c : Fin 4) : wordOf (ofWords w0 w1 w2 w3) c = #v[w0, w1, w2, w3][c] := by
  apply Vector.ext
  intro j hj
  fin_cases c <;> interval_cases j <;> rfl

/-- The first word of a round key, from the first and the last word of the one before it (R65, `i mod 4 = 0`). -/
theorem wordOf_nextRoundKey_zero (j : Nat) (B : Block) :
    wordOf (nextRoundKey j B) 0 = wordXor (wordOf B 0) (wordXor (subWord (rotWord (wordOf B 3))) (rconWord j)) :=
  wordOf_ofWords ..

/-- Each further word of a round key, from the same word of the one before it and the word just made (R65, `i mod 4 ≠ 0`). -/
theorem wordOf_nextRoundKey_succ (j : Nat) (B : Block) (c : Fin 3) :
    wordOf (nextRoundKey j B) c.succ = wordXor (wordOf B c.succ) (wordOf (nextRoundKey j B) c.castSucc) := by
  simp only [nextRoundKey, wordOf_ofWords]
  fin_cases c <;> rfl

/-- Word `4r + c` of the schedule is word `c` of `RK(r)` (R66). -/
theorem scheduleWord_keyExpansion (key : Block) (r : Nat) (c : Fin 4) {i : Fin 44} (hi : i.val = 4 * r + c.val) :
    scheduleWord (keyExpansion key) i = wordOf (roundKeyOf key r) c := by
  have hr : i.val / 4 = r := by omega
  have hc : i.val % 4 = c.val := by omega
  simp [scheduleWord, hr, hc]

/-- Settles O24: with `n = 4r + c`, word `n + 4` is word `c` of `RK(r + 1)`, and word `n + 3` is the last word of `RK(r)` when
`c = 0` and otherwise the word of `RK(r + 1)` made just before. -/
theorem keyExpansionRecurrence : Obligations.KeyExpansionRecurrence := by
  intro key
  refine ⟨keyExpansion_getElem key 0 (by decide), fun r c j => ?_, fun n h => ?_⟩
  · rw [scheduleWord_keyExpansion key r c rfl]
    simp
  · obtain ⟨r, c, rfl⟩ : ∃ (r : Nat) (c : Fin 4), n = 4 * r + c.val :=
      ⟨n / 4, ⟨n % 4, Nat.mod_lt _ (by decide)⟩, (Nat.div_add_mod n 4).symm⟩
    rw [scheduleWord_keyExpansion key (r + 1) c (i := ⟨4 * r + c.val + 4, _⟩) (by dsimp only; omega),
      scheduleWord_keyExpansion key r c (i := ⟨4 * r + c.val, _⟩) rfl, roundKeyOf_succ]
    cases c using Fin.cases with
    | zero =>
      have first : (4 * r + (0 : Fin 4).val + 4) % 4 = 0 := by simp
      have round : (4 * r + (0 : Fin 4).val + 4) / 4 = r + 1 := by simp
      rw [if_pos first, round, scheduleWord_keyExpansion key r 3 rfl, wordOf_nextRoundKey_zero]
    | succ c =>
      have later : (4 * r + c.succ.val + 4) % 4 ≠ 0 := by rw [Fin.val_succ]; omega
      have before : 4 * r + c.succ.val + 3 = 4 * (r + 1) + c.castSucc.val := by rw [Fin.val_succ, Fin.val_castSucc]; omega
      rw [if_neg later, scheduleWord_keyExpansion key (r + 1) c.castSucc before, roundKeyOf_succ, wordOf_nextRoundKey_succ]

end Sys2Proof.Machine
end

section
/-! The round transformations and their inverses (40_aes_core.md R67-R71, R73-R75). -/

namespace Sys2Proof.Machine

/-! ### Bytes and rows -/

/-- Byte `i` of a Block is the entry at row `i mod 4`, column `i / 4` of its state array (R67). -/
theorem getElem_eq_cell (B : Block) (i : Nat) (h : i < 16) :
    B[i] = cell B ⟨i % 4, Nat.mod_lt _ (by decide)⟩ ⟨i / 4, by omega⟩ := by
  simp [cell, Nat.mod_add_div]

@[simp] theorem subBytes_getElem (B : Block) (i : Nat) (h : i < 16) : (subBytes B)[i] = sbox B[i] := by
  rw [getElem_eq_cell, getElem_eq_cell B, subBytes, cell_ofCells]

@[simp] theorem invSubBytes_getElem (B : Block) (i : Nat) (h : i < 16) : (invSubBytes B)[i] = invSbox B[i] := by
  rw [getElem_eq_cell, getElem_eq_cell B, invSubBytes, cell_ofCells]

@[simp] theorem cell_shiftRows (B : Block) (r c : Fin 4) : cell (shiftRows B) r c = cell B r (c + r) := cell_ofCells ..

@[simp] theorem cell_invShiftRows (B : Block) (r c : Fin 4) : cell (invShiftRows B) r c = cell B r (c - r) := cell_ofCells ..

@[simp] theorem invSubBytes_subBytes (B : Block) : invSubBytes (subBytes B) = B := by
  apply Vector.ext
  simp [invSbox_sbox]

@[simp] theorem subBytes_invSubBytes (B : Block) : subBytes (invSubBytes B) = B := by
  apply Vector.ext
  simp [sbox_invSbox]

@[simp] theorem invShiftRows_shiftRows (B : Block) : invShiftRows (shiftRows B) = B :=
  block_ext_cell fun r c => by rw [cell_invShiftRows, cell_shiftRows, sub_add_cancel]

@[simp] theorem shiftRows_invShiftRows (B : Block) : shiftRows (invShiftRows B) = B :=
  block_ext_cell fun r c => by rw [cell_shiftRows, cell_invShiftRows, add_sub_cancel_right]

/-- Settles O25: the two substitutions act byte by byte, and the two rotations row by row, moving each entry by its row's number
of columns and back. -/
theorem roundTransformsByByte : Obligations.RoundTransformsByByte := by
  intro K k B
  refine ⟨fun i h => ⟨subBytes_getElem B i h, invSubBytes_getElem B i h, blockXor_getElem B K[k] i h⟩,
    fun r c => ⟨cell_shiftRows B r c, ?_⟩, invShiftRows_shiftRows B, shiftRows_invShiftRows B⟩
  have back : cell (invShiftRows B) r (c + r) = cell B r c := by rw [cell_invShiftRows, add_sub_cancel_right]
  exact back

/-! ### Columns -/

/-- A column of a Block by the entries of its state array. -/
theorem wordOf_eq_iff (B : Block) (c : Fin 4) (a0 a1 a2 a3 : Byte) :
    wordOf B c = #v[a0, a1, a2, a3] ↔ cell B 0 c = a0 ∧ cell B 1 c = a1 ∧ cell B 2 c = a2 ∧ cell B 3 c = a3 := by
  have column : wordOf B c = #v[cell B 0 c, cell B 1 c, cell B 2 c, cell B 3 c] := by
    apply Vector.ext
    intro j hj
    interval_cases j <;> simp [cell, Nat.add_comm]
  simp [column]

/-- A column after a mixing with coefficients `k0 k1 k2 k3`: row by row they are rotated right by one place. -/
theorem wordOf_mix (k0 k1 k2 k3 : Byte) {B : Block} {c : Fin 4} {a0 a1 a2 a3 : Byte}
    (h : wordOf B c = #v[a0, a1, a2, a3]) :
    wordOf (ofCells (mixEntry k0 k1 k2 k3 B)) c =
      #v[gfMul k0 a0 ^^^ gfMul k1 a1 ^^^ gfMul k2 a2 ^^^ gfMul k3 a3,
        gfMul k3 a0 ^^^ gfMul k0 a1 ^^^ gfMul k1 a2 ^^^ gfMul k2 a3,
        gfMul k2 a0 ^^^ gfMul k3 a1 ^^^ gfMul k0 a2 ^^^ gfMul k1 a3,
        gfMul k1 a0 ^^^ gfMul k2 a1 ^^^ gfMul k3 a2 ^^^ gfMul k0 a3] := by
  obtain ⟨rfl, rfl, rfl, rfl⟩ := (wordOf_eq_iff ..).1 h
  simp only [wordOf_eq_iff, cell_ofCells, mixEntry]
  refine ⟨rfl, ?_, ?_, ?_⟩ <;> (simp; ac_rfl)

/-- Settles O26: the coefficients are {02} {03} {01} {01}. -/
theorem mixColumnsByColumn : Obligations.MixColumnsByColumn := by
  intro B c a0 a1 a2 a3 h
  rw [mixColumns, wordOf_mix _ _ _ _ h]
  simp only [gfMul_one_left, gfMul_two_left, gfMul_three_left]

/-- Mixing twice is mixing with the cyclic convolution of the coefficients: at distance `d` stands the sum of the products of
the coefficients at distances that add up to `d` modulo 4. -/
theorem mix_mix (k0 k1 k2 k3 m0 m1 m2 m3 : Byte) (B : Block) :
    ofCells (mixEntry k0 k1 k2 k3 (ofCells (mixEntry m0 m1 m2 m3 B))) =
      ofCells (mixEntry (gfMul k0 m0 ^^^ gfMul k1 m3 ^^^ gfMul k2 m2 ^^^ gfMul k3 m1)
        (gfMul k0 m1 ^^^ gfMul k1 m0 ^^^ gfMul k2 m3 ^^^ gfMul k3 m2)
        (gfMul k0 m2 ^^^ gfMul k1 m1 ^^^ gfMul k2 m0 ^^^ gfMul k3 m3)
        (gfMul k0 m3 ^^^ gfMul k1 m2 ^^^ gfMul k2 m1 ^^^ gfMul k3 m0) B) := by
  refine congrArg ofCells (funext₂ fun r c => ?_)
  have wrap : (r + 1 + 1 = r + 2 ∧ r + 1 + 2 = r + 3 ∧ r + 1 + 3 = r) ∧
      (r + 2 + 1 = r + 3 ∧ r + 2 + 2 = r ∧ r + 2 + 3 = r + 1) ∧
      (r + 3 + 1 = r ∧ r + 3 + 2 = r + 1 ∧ r + 3 + 3 = r + 2) := by revert r; decide
  simp only [mixEntry, cell_ofCells, wrap, gfMul_xor_left, gfMul_xor_right, gfMul_assoc]
  ac_rfl

/-- Mixing with the coefficients {01} {00} {00} {00} is the identity. -/
theorem mix_one (B : Block) : ofCells (mixEntry 1 0 0 0 B) = B :=
  block_ext_cell fun r c => by
    simp only [cell_ofCells, mixEntry, gfMul_one_left, gfMul_zero_left]
    simp

/-- The coefficients {0e} {0b} {0d} {09} and {02} {03} {01} {01} convolve to {01} {00} {00} {00}. -/
@[simp] theorem invMixColumns_mixColumns (B : Block) : invMixColumns (mixColumns B) = B :=
  (mix_mix ..).trans (mix_one B)

/-- The convolution of the coefficients does not depend on which mixing comes first. -/
@[simp] theorem mixColumns_invMixColumns (B : Block) : mixColumns (invMixColumns B) = B :=
  (mix_mix ..).trans (mix_one B)

/-- Settles O27: the two mixings compose to the identity, and the coefficients of the second are {0e} {0b} {0d} {09}. -/
theorem invMixColumnsInverts : Obligations.InvMixColumnsInverts :=
  ⟨invMixColumns_mixColumns, fun _ _ _ _ _ _ h => wordOf_mix _ _ _ _ h⟩

end Sys2Proof.Machine
end

section
/-! The cipher and the inverse cipher (40_aes_core.md R72, R76, R77). -/

namespace Sys2Proof.Machine

variable (K : Schedule)

/-- Undoing a run of rounds: if each `g`-round takes what `h` makes of an `f`-round back to what `h` made before it, the
`g`-rounds in reverse order undo the `f`-rounds. -/
theorem foldl_reverse_undoes {α β ι : Type} {f : α → ι → α} {g : β → ι → β} {h : α → β}
    (undo : ∀ a i, g (h (f a i)) i = h a) (is : List ι) (a : α) :
    is.reverse.foldl g (h (is.foldl f a)) = h a := by
  induction is generalizing a with
  | nil => rfl
  | cons i is ih => simp [ih, undo]

/-- A round of the inverse cipher takes the substituted and rotated output of the cipher's round with the same key to its
substituted and rotated input. -/
theorem invCipherRound_cipherRound (B : Block) (r : Fin 11) :
    invCipherRound K (shiftRows (subBytes (cipherRound K B r))) r = shiftRows (subBytes B) := by
  simp [invCipherRound, cipherRound]

/-- A round of the cipher takes the output of the inverse cipher's round with the same key, rotated and substituted back, to its
input, rotated and substituted back. -/
theorem cipherRound_invCipherRound (B : Block) (r : Fin 11) :
    cipherRound K (invSubBytes (invShiftRows (invCipherRound K B r))) r = invSubBytes (invShiftRows B) := by
  simp [invCipherRound, cipherRound]

/-- Settles O28: each round of one cipher undoes the same round of the other, in reverse order, between the last steps
of the one and the first of the other. -/
theorem cipherInversion : Obligations.CipherInversion := by
  intro K B
  constructor
  · have rounds := foldl_reverse_undoes (h := fun B => shiftRows (subBytes B)) (invCipherRound_cipherRound K)
      [1, 2, 3, 4, 5, 6, 7, 8, 9] (addRoundKey K 0 B)
    simp only [List.reverse_cons, List.reverse_nil, List.nil_append, List.cons_append] at rounds
    simp [invCipher, cipher, rounds, -List.foldl_cons]
  · have rounds := foldl_reverse_undoes (h := fun B => invSubBytes (invShiftRows B)) (cipherRound_invCipherRound K)
      [9, 8, 7, 6, 5, 4, 3, 2, 1] (addRoundKey K 10 B)
    simp only [List.reverse_cons, List.reverse_nil, List.nil_append, List.cons_append] at rounds
    simp [invCipher, cipher, rounds, -List.foldl_cons]

end Sys2Proof.Machine
end

section
/-! Reserved bits of CMD, and STATUS after a register is written (30_encoding.md R54, 10_state.md R26, R27). -/

namespace Sys2Proof.Machine

/-- Requests with an assigned opcode and a reserved bit set are rejected with E_RSVD in every state (R54). -/
theorem rejectsReserved_of_mem {opc : Byte} (h : opc ∈ assignedOpcodes) (s : State) :
    rejectsReserved opc (decide (opc ∈ selectorOpcodes)) s := by
  rintro r rfl hr
  exact perform_of_error (decode_of_reserved h (by simpa using hr))

/-- Setting the valid bit at place `n` sets bit `n` of STATUS, when ERR and LASTERR stay. -/
theorem State.status_of_valid_set {s t : State} (n : Fin 5)
    (hv : [t.k0v, t.k1v, t.cv, t.tv, t.rv] = [s.k0v, s.k1v, s.cv, s.tv, s.rv].set n true)
    (he : t.err = s.err) (hl : t.lastErr = s.lastErr) : t.status = s.status ||| BitVec.twoPow 32 n := by
  apply BitVec.eq_of_getLsbD_eq
  intro k hk
  rw [BitVec.getLsbD_or, BitVec.getLsbD_twoPow, State.status_getLsbD, State.status_getLsbD, he, hl]
  by_cases h5 : k < 5
  · simp only [if_pos h5, State.validBits_getLsbD _ h5, hv, List.getElem_set]
    split <;> simp [*]
  · have hn : n.val ≠ k := by omega
    simp [h5, hn]

variable (s : State)

theorem State.setKey_d_status (K : Schedule) : (s.setKey .d K).status = s.status ||| 0x00000001#32 :=
  State.status_of_valid_set 0 rfl rfl rfl

theorem State.setKey_t_status (K : Schedule) : (s.setKey .t K).status = s.status ||| 0x00000002#32 :=
  State.status_of_valid_set 1 rfl rfl rfl

theorem State.setRes_status (B : Block) : (s.setRes B).status = s.status ||| 0x00000010#32 :=
  State.status_of_valid_set 4 rfl rfl rfl

end Sys2Proof.Machine
end

section
/-! The meanings of KEYLD, ENC and DEC (40_aes_core.md R79-R81). -/

namespace Sys2Proof.Machine

/-- A row with a selector makes its command for KS[0] from the word with KSEL = 0 and for KS[1] from the one with KSEL = 1. -/
theorem decode_selector_row {opc : Byte} {make : Slot → Block → Instr} (h : rowOf opc = some ⟨opc, true, make⟩)
    (B : Block) :
    decode ⟨cmdWord 0 opc, B⟩ = .ok (make .d B) ∧ decode ⟨cmdWord 1 opc, B⟩ = .ok (make .t B) := by
  constructor <;> exact decode_eq_ok.2 ⟨⟨opc, true, make⟩, by simp [h, slotOf]⟩

/-- Settles O29: KEYLD completes after its one write, whatever the state. -/
theorem keyldLoadsOneSlot : Obligations.KeyldLoadsOneSlot := by
  intro key s
  obtain ⟨hd, ht⟩ := decode_selector_row (opc := 0x01) rfl key
  exact ⟨⟨_, rfl, rfl, s.setKey_d_status _⟩, ⟨_, rfl, rfl, s.setKey_t_status _⟩, hd, ht,
    rejectsReserved_of_mem (by decide) s⟩

/-- A command that needs a loaded schedule and writes a Block made from it to RES completes with RV set and nothing else
changed. -/
theorem needKey_complete_setRes {s : State} {slot : Slot} {K : Schedule} (h : s.key slot = some K) (f : Schedule → Block) :
    ∃ t, needKey s slot (fun K => complete (s.setRes (f K))) = .next t ∧
      t = { s with res := some (f K), rsp := some .ok } ∧ t.status = s.status ||| 0x00000010#32 :=
  ⟨_, needKey_of_some h, rfl, s.setRes_status _⟩

/-- Settles O30, by the two cases of the slot that ENC needs. -/
theorem encWritesCipher : Obligations.EncWritesCipher := by
  intro slot block s
  obtain ⟨hd, ht⟩ := decode_selector_row (opc := 0x02) rfl block
  exact ⟨fun _ hK => needKey_complete_setRes hK (cipher · block), needKey_of_none, hd, ht,
    rejectsReserved_of_mem (by decide) s⟩

/-- Settles O31, by the two cases of the slot that DEC needs. -/
theorem decWritesInverseCipher : Obligations.DecWritesInverseCipher := by
  intro slot block s
  obtain ⟨hd, ht⟩ := decode_selector_row (opc := 0x03) rfl block
  exact ⟨fun _ hK => needKey_complete_setRes hK (invCipher · block), needKey_of_none, hd, ht,
    rejectsReserved_of_mem (by decide) s⟩

end Sys2Proof.Machine
end

section
/-! The adder and the meanings of CTRLD, CTRADD and CTRRD (41_counter.md R100-R104). -/

namespace Sys2Proof.Machine

variable {s : State} {x : Num128}

/-- Settles O32, by the carry out of the low lane. -/
theorem adderIsAddition : Obligations.AdderIsAddition := add128_eq_add

/-- Loading the counter sets CV and no other bit of STATUS (10_state.md R26). -/
theorem State.setCtr_status (s : State) (x : Num128) : (s.setCtr x).status = s.status ||| 0x00000004#32 :=
  State.status_of_valid_set 2 rfl rfl rfl

/-- Replacing a counter that holds a value leaves STATUS: CV is 1 already (10_state.md R26). -/
theorem State.setCtr_status_of_some (h : s.ctr = some x) (y : Num128) : (s.setCtr y).status = s.status := by
  refine s.status_congr _ ?_ rfl rfl
  simp [State.validBits, State.k0v, State.k1v, State.cv, State.tv, State.rv, h]

/-- A row without a selector makes its command from the word that holds its opcode alone. -/
theorem decode_plain_row {opc : Byte} {make : Slot → Block → Instr} (h : rowOf opc = some ⟨opc, false, make⟩)
    (B : Block) : decode ⟨cmdWord 0 opc, B⟩ = .ok (make .d B) :=
  decode_eq_ok.2 ⟨⟨opc, false, make⟩, by simp [h, slotOf]⟩

/-- Settles O33: CTRLD completes after its one write, whatever the state. -/
theorem ctrldLoadsCounter : Obligations.CtrldLoadsCounter := by
  intro value s
  have hdecode := decode_plain_row (opc := 0x10) rfl value
  exact ⟨⟨_, rfl, rfl, s.setCtr_status (le128 value)⟩, hdecode, rejectsReserved_of_mem (by decide) s⟩

/-- CTRADD with a legal operand and no counter is rejected with E_NOCTR (R103). -/
theorem exec_ctradd_of_none {B : Block} (hB : upperZero B = true) (h : s.ctr = none) :
    exec (.ctradd B) s = .next (s.reject .eNoctr) := by
  rw [exec, execCtradd, if_pos hB, needCtr_of_none h, rejected]

/-- CTRADD with an illegal operand is rejected with E_OPND, whatever the counter (R103). -/
theorem exec_ctradd_of_not_upperZero {B : Block} (hB : ¬ upperZero B = true) (s : State) :
    exec (.ctradd B) s = .next (s.reject .eOpnd) := by
  rw [exec, execCtradd, if_neg hB, rejected]

/-- Settles O34, by the operand check first and the counter second; the two corner sums are sums modulo 2^128. -/
theorem ctraddAddsWithCarry : Obligations.CtraddAddsWithCarry := by
  intro addend s
  have hdecode := decode_plain_row (opc := 0x11) rfl addend
  refine ⟨fun hlegal => ?_, fun ⟨i, hi, h8, hne⟩ => ?_, hdecode, rejectsReserved_of_mem (by decide) s⟩
  · have hB := (upperZero_iff addend).2 hlegal
    refine ⟨fun x hx => ⟨_, exec_ctradd hB hx, ?_, s.setCtr_status_of_some hx _, fun h0 => ?_, fun h1 hmax => ?_⟩,
      exec_ctradd_of_none hB⟩
    · rw [add128_eq_add]
    · simp [h0]
    · rw [h1, hmax]
      rfl
  · exact exec_ctradd_of_not_upperZero (fun hB => hne ((upperZero_iff addend).1 hB i hi h8)) s

/-- CTRRD with a counter completes after writing it to RES (R104). -/
theorem exec_ctrrd_of_some (h : s.ctr = some x) : exec .ctrrd s = complete (s.setRes (toLE x)) := needCtr_of_some h

/-- Settles O35, by the two cases of the counter; CTRLD leaves a counter, and `toLE` gives back the Block it was read from. -/
theorem ctrrdReadsCounter : Obligations.CtrrdReadsCounter := by
  intro s
  refine ⟨fun x hx => ⟨_, exec_ctrrd_of_some hx, rfl, s.setRes_status (toLE x)⟩, needCtr_of_none, ?_,
    decode_plain_row (opc := 0x12) rfl, rejectsReserved_of_mem (by decide) s⟩
  intro value u h
  obtain rfl := complete_eq_next.1 h
  exact ⟨_, exec_ctrrd_of_some rfl, congrArg some (toLE_le128 value)⟩

end Sys2Proof.Machine
end

section
/-! The tweak block and the doubler (42_tweak.md R110-R112). -/

namespace Sys2Proof.Machine

/-! ### The tweak block (R110) -/

/-- `BE128` is the inverse of `toBE`. -/
@[simp] theorem be128_toBE (x : Num128) : be128 (toBE x) = x := by
  apply BitVec.eq_of_getLsbD_eq
  intro k hk
  have hr : k % 8 < 8 := Nat.mod_lt _ (by decide)
  have h := be128_getLsbD (toBE x) (15 - k / 8) (k % 8) (by omega) hr
  have hq : 15 - (15 - k / 8) = k / 8 := by omega
  rw [hq, Nat.div_add_mod] at h
  rw [h]
  simp [hr, hq, Nat.div_add_mod]

/-- Byte `j` of a lane is byte `j` of the number, counted from the lane's first bit. -/
theorem extractLsb'_byte_of_lane (x : Num128) (start : Nat) {j : Nat} (hj : j < 8) :
    (x.extractLsb' start 64).extractLsb' (8 * j) 8 = x.extractLsb' (start + 8 * j) 8 := by
  apply BitVec.eq_of_getLsbD_eq
  intro r hr
  have inLane : 8 * j + r < 64 := by omega
  simp [inLane, Nat.add_assoc]

/-- Settles O36: byte `i` of the tweak block is byte `15 - i` of the counter, which lies in the high lane for `i < 8`. -/
theorem tweakBlockBytes : Obligations.TweakBlockBytes := by
  intro x i hi
  have hj : 7 - i < 8 := by omega
  refine ⟨?_, ?_, be128_toBE x⟩
  · rw [extractLsb'_byte_of_lane x 64 hj, tweakBlock, toBE_getElem, show 8 * (15 - i) = 64 + 8 * (7 - i) by omega]
  · rw [extractLsb'_byte_of_lane x 0 hj, tweakBlock, toBE_getElem, show 8 * (15 - (8 + i)) = 0 + 8 * (7 - i) by omega]

/-! ### The doubler (R111) -/

/-- The little-endian number of `Double(T)`. -/
theorem le128_double (T : Block) :
    le128 (double T) = if (le128 T)[127] then le128 T <<< 1 ^^^ reduction else le128 T <<< 1 :=
  le128_toLE _

/-- The constant has the bits of x^7 + x^2 + x + 1. -/
theorem reduction_getLsbD (k : Nat) : reduction.getLsbD k = (k == 0 || k == 1 || k == 2 || k == 7) := by
  have taps : reduction =
      BitVec.twoPow 128 0 ||| BitVec.twoPow 128 1 ||| BitVec.twoPow 128 2 ||| BitVec.twoPow 128 7 := by decide
  simp only [taps, BitVec.getLsbD_or, BitVec.getLsbD_twoPow]
  grind

/-- Settles O37, by the value of bit 127: the shift moves every bit up by one, and the constant flips its four taps. -/
theorem doubleMultipliesByX : Obligations.DoubleMultipliesByX := by
  intro T k hk
  have shifted : (le128 T <<< 1).getLsbD k = (decide (1 ≤ k) && (le128 T).getLsbD (k - 1)) := by
    simp [hk, Nat.one_le_iff_ne_zero, -BitVec.getLsbD_eq_getElem]
  rw [le128_double, ← shifted, ← reduction_getLsbD, ← BitVec.getLsbD_eq_getElem]
  cases (le128 T).getLsbD 127 with
  | false => rw [if_neg Bool.false_ne_true, Bool.false_and, Bool.xor_false]
  | true => rw [if_pos rfl, BitVec.getLsbD_xor, Bool.true_and]

/-! ### The doubler on lanes (R112) -/

/-- The little-endian number of a Block is its high lane before its low lane (R8). -/
theorem le128_eq_lanes (B : Block) : le128 B = le64High B ++ le64Low B := by
  apply BitVec.eq_of_toNat_eq
  simp only [le128, le64High, le64Low, BitVec.toNat_append]
  simp [Nat.shiftLeft_or_distrib, ← Nat.shiftLeft_add, Nat.or_assoc]

/-- The high lane of a Block is the high lane of its little-endian number. -/
theorem le64High_eq_highLane (B : Block) : le64High B = highLane (le128 B) := by
  rw [le128_eq_lanes]
  exact BitVec.extractLsb'_append_eq_left.symm

/-- Exclusive or acts on each lane by itself. -/
theorem lowLane_xor (x y : Num128) : lowLane (x ^^^ y) = lowLane x ^^^ lowLane y := BitVec.extractLsb'_xor

theorem highLane_xor (x y : Num128) : highLane (x ^^^ y) = highLane x ^^^ highLane y := BitVec.extractLsb'_xor

/-- Bit 63 of the high lane is bit 127 of the number. -/
theorem highLane_getElem_63 (x : Num128) : (highLane x)[63] = x[127] := by
  rw [highLane, BitVec.getElem_extractLsb', ← BitVec.getLsbD_eq_getElem]

/-- The low lane of a shifted number is the low lane, shifted. -/
theorem lowLane_shiftLeft_one (x : Num128) : lowLane (x <<< 1) = lowLane x <<< 1 := by
  apply BitVec.eq_of_getLsbD_eq
  intro k hk
  have bounds : k < 128 ∧ k - 1 < 64 := by omega
  simp [lowLane, hk, bounds, -BitVec.getLsbD_eq_getElem]

/-- The high lane of a shifted number is the high lane, shifted, with the bit that left the low lane at its bottom. -/
theorem highLane_shiftLeft_one (x : Num128) :
    highLane (x <<< 1) = highLane x <<< 1 ||| if (lowLane x)[63] then 1 else 0 := by
  apply BitVec.eq_of_getLsbD_eq
  intro k hk
  have carry : (if (lowLane x)[63] then 1 else 0 : Lane).getLsbD k = (decide (k = 0) && x.getLsbD 63) := by
    rw [lowLane, BitVec.getElem_extractLsb']
    cases x.getLsbD (0 + 63) <;> simp
  rw [BitVec.getLsbD_or, carry]
  cases k with
  | zero => simp [highLane]
  | succ k =>
    have bounds : 64 + (k + 1) < 128 ∧ k < 64 := by omega
    have shifted : 64 + (k + 1) - 1 = 64 + k := by omega
    simp [highLane, hk, bounds, shifted, -BitVec.getLsbD_eq_getElem]

/-- Settles O38: the lanes of the shifted number are the shifted lanes with the carry between them, and the constant lies in the
low lane. -/
theorem doubleByLanes : Obligations.DoubleByLanes := by
  intro T
  have low : lowLane reduction = 0x87 := by decide
  have high : highLane reduction = 0 := by decide
  rw [le64Low_eq_lowLane, le64High_eq_highLane, le64Low_eq_lowLane, le64High_eq_highLane, le128_double]
  simp only [doubleLanes, highLane_getElem_63]
  split
  · simp [lowLane_xor, highLane_xor, lowLane_shiftLeft_one, highLane_shiftLeft_one, low, high]
  · simp [lowLane_shiftLeft_one, highLane_shiftLeft_one]

end Sys2Proof.Machine
end

section
/-! The meanings of TWLD, TWRD, TWGEN and TWDBL (42_tweak.md R113-R116). -/

namespace Sys2Proof.Machine

variable {s : State} {T : Block}

/-- Loading the tweak sets TV and no other bit of STATUS (10_state.md R26). -/
theorem State.setTwk_status (s : State) (T : Block) : (s.setTwk T).status = s.status ||| 0x00000008#32 :=
  State.status_of_valid_set 3 rfl rfl rfl

/-- Replacing a tweak that holds a value leaves STATUS: TV is 1 already (10_state.md R26). -/
theorem State.setTwk_status_of_some (h : s.twk = some T) (T' : Block) : (s.setTwk T').status = s.status := by
  refine s.status_congr _ ?_ rfl rfl
  simp [State.validBits, State.k0v, State.k1v, State.cv, State.tv, State.rv, h]

/-- Settles O39: TWLD completes after its one write, whatever the state. -/
theorem twldLoadsTweak : Obligations.TwldLoadsTweak := by
  intro tweak s
  have hdecode := decode_plain_row (opc := 0x20) rfl tweak
  exact ⟨⟨_, rfl, rfl, s.setTwk_status tweak⟩, hdecode, rejectsReserved_of_mem (by decide) s⟩

/-- Settles O40, by the two cases of the tweak. -/
theorem twrdReadsTweak : Obligations.TwrdReadsTweak := by
  intro s
  exact ⟨fun T hT => ⟨_, needTwk_of_some hT, rfl, s.setRes_status T⟩, needTwk_of_none,
    decode_plain_row (opc := 0x21) rfl, rejectsReserved_of_mem (by decide) s⟩

/-- TWGEN with KS[1] and a counter completes after writing the encrypted tweak block to TWK (R115). -/
theorem exec_twgen {K : Schedule} {x : Num128} (hK : s.ks1 = some K) (hx : s.ctr = some x) :
    exec .twgen s = complete (s.setTwk (cipher K (tweakBlock x))) := by
  rw [exec, execTwgen, needKey_of_some (slot := .t) hK, needCtr_of_some hx]

/-- TWGEN with KS[1] and no counter is rejected with E_NOCTR (R115). -/
theorem exec_twgen_of_ctr_none {K : Schedule} (hK : s.ks1 = some K) (hx : s.ctr = none) :
    exec .twgen s = .next (s.reject .eNoctr) := by
  rw [exec, execTwgen, needKey_of_some (slot := .t) hK, needCtr_of_none hx, rejected]

/-- Settles O41, by the schedule first and the counter second. -/
theorem twgenDerivesTweak : Obligations.TwgenDerivesTweak := by
  intro s
  exact ⟨fun K x hK hx => ⟨_, exec_twgen hK hx, rfl, s.setTwk_status _⟩, needKey_of_none (slot := .t),
    fun _ => exec_twgen_of_ctr_none, decode_plain_row (opc := 0x22) rfl, rejectsReserved_of_mem (by decide) s⟩

/-- Settles O42, by the two cases of the tweak; the corner values are evaluated. -/
theorem twdblDoublesTweak : Obligations.TwdblDoublesTweak := by
  intro s
  exact ⟨fun T hT => ⟨_, needTwk_of_some hT, rfl, s.setTwk_status_of_some hT _⟩, needTwk_of_none,
    by decide, by decide, by decide, decode_plain_row (opc := 0x23) rfl, rejectsReserved_of_mem (by decide) s⟩

end Sys2Proof.Machine
end

section
/-! The meanings of XTSE and XTSD (43_xtsn_unit.md R120-R122). -/

namespace Sys2Proof.Machine

variable {s : State} {K : Schedule} {T : Block} {d : Direction}

/-- The block transformation of the unit command of a direction (R120, R121). -/
def unitCipher (d : Direction) (K : Schedule) : Block → Block :=
  match d with
  | .encrypt => cipher K
  | .decrypt => invCipher K

/-- The state in which a unit command completes: the unit's result in RES, the tweak doubled (R120, R121). -/
def State.afterUnit (s : State) (d : Direction) (K : Schedule) (T B : Block) : State :=
  (s.setRes (unitStep (unitCipher d K) T B)).setTwk (double T)

/-- With KS[0] and a tweak a unit command completes. -/
theorem exec_unitCommand (hK : s.ks0 = some K) (hT : s.twk = some T) (B : Block) :
    exec (unitCommand d B) s = complete (s.afterUnit d K T B) := by
  cases d <;> exact (needKey_of_some (slot := .d) hK).trans (needTwk_of_some hT)

/-- Without KS[0] a unit command is rejected with E_NOKEY, whether or not there is a tweak. -/
theorem exec_unitCommand_of_ks0_none (h : s.ks0 = none) (B : Block) :
    exec (unitCommand d B) s = .next (s.reject .eNokey) := by
  cases d <;> exact needKey_of_none (slot := .d) h

/-- With KS[0] but no tweak a unit command is rejected with E_NOTWK. -/
theorem exec_unitCommand_of_twk_none (hK : s.ks0 = some K) (h : s.twk = none) (B : Block) :
    exec (unitCommand d B) s = .next (s.reject .eNotwk) := by
  cases d <;> exact (needKey_of_some (slot := .d) hK).trans (needTwk_of_none h)

/-- A unit command sets RV and no other bit of STATUS: the tweak it doubles was there (10_state.md R26). -/
theorem State.afterUnit_status (hT : s.twk = some T) (d : Direction) (K : Schedule) (B : Block) :
    (s.afterUnit d K T B).status = s.status ||| 0x00000010#32 :=
  (State.setTwk_status_of_some (s := s.setRes _) hT _).trans (s.setRes_status _)

/-- Settles O43, by the schedule first and the tweak second. -/
theorem xtseEncryptsUnit : Obligations.XtseEncryptsUnit := by
  intro block s
  have hdecode := decode_plain_row (opc := 0x30) rfl block
  exact ⟨fun K T hK hT => ⟨_, exec_unitCommand (d := .encrypt) hK hT block, rfl, State.afterUnit_status hT _ _ _⟩,
    fun h => exec_unitCommand_of_ks0_none (d := .encrypt) h block,
    fun _ hK h => exec_unitCommand_of_twk_none (d := .encrypt) hK h block, hdecode, rejectsReserved_of_mem (by decide) s⟩

/-- Settles O44, by the schedule first and the tweak second. -/
theorem xtsdDecryptsUnit : Obligations.XtsdDecryptsUnit := by
  intro block s
  have hdecode := decode_plain_row (opc := 0x31) rfl block
  exact ⟨fun K T hK hT => ⟨_, exec_unitCommand (d := .decrypt) hK hT block, rfl, State.afterUnit_status hT _ _ _⟩,
    fun h => exec_unitCommand_of_ks0_none (d := .decrypt) h block,
    fun _ hK h => exec_unitCommand_of_twk_none (d := .decrypt) hK h block, hdecode, rejectsReserved_of_mem (by decide) s⟩

/-- The unit step with the inverse cipher undoes the unit step with the cipher: the two xors with one tweak cancel on each side of
the two ciphers. -/
theorem unitStep_invCipher_cipher (K : Schedule) (T B : Block) :
    unitStep (invCipher K) T (unitStep (cipher K) T B) = B := by
  rw [unitStep, unitStep, blockXor_cancel, (cipherInversion K _).1, blockXor_cancel]

/-- Settles O45: both commands complete under the same tweak, and the unit step inverts. -/
theorem unitInversion : Obligations.UnitInversion := by
  intro block s u K T hsK huK hsT huT
  refine ⟨_, _, _, exec_unitCommand (d := .encrypt) hsK hsT block, rfl, exec_unitCommand (d := .decrypt) huK huT _,
    ?_, rfl, rfl⟩
  exact congrArg some (unitStep_invCipher_cipher K T block)

end Sys2Proof.Machine
end

section
/-! Running a host's sequence of commands (43_xtsn_unit.md R125, 70_reset_and_hazards.md R168). -/

namespace Sys2Proof.Machine

variable {s t u : State} {i : Instr} {is : List Instr} {K : Schedule} {T : Block} {d : Direction}

/-- A command whose writes can be made completes. -/
theorem Writes.exec_eq (h : Writes s i u) : exec i s = complete u := by
  cases h with
  | nop | keyld | ctrld | twld | statrd => rfl
  | enc hK | dec hK => exact needKey_of_some hK
  | ctradd hB hx => exact (if_pos hB).trans (needCtr_of_some hx)
  | ctrrd hx => exact needCtr_of_some hx
  | twrd hT | twdbl hT => exact needTwk_of_some hT
  | twgen hK hx => exact (needKey_of_some hK).trans (needCtr_of_some hx)
  | xtse hK hT | xtsd hK hT => exact (needKey_of_some hK).trans (needTwk_of_some hT)

/-- Performing the encoding of a command runs the command. -/
theorem perform_encode (i : Instr) (s : State) : perform (encode i) s = exec i s :=
  perform_of_ok (decode_of_encoding rfl fun _ => rfl)

/-- What the host keeps of a completed command: the result of a unit command, and nothing of any other (R123). -/
def keptResult (i : Instr) (u : State) : List Block := if isUnit i then u.res.toList else []

/-- A sequence goes on from the state in which its first command completed, and what is kept of that command comes first. -/
theorem runCommands_cons (h : Writes s i u) (is : List Instr) :
    runCommands (i :: is) s =
      (runCommands is (u.respond .ok)).map (Prod.map (keptResult i u ++ ·) id) := by
  rw [runCommands, perform_encode, h.exec_eq, complete, keptResult]
  cases isUnit i <;> rfl

/-- The first command of a sequence that completes is not rejected. -/
theorem writes_of_runCommands_cons {r : List Block × State} (h : runCommands (i :: is) s = some r) :
    ∃ u, Writes s i u := by
  obtain ⟨c, hc, e⟩ | ⟨u, hu, -⟩ := exec_performs i s
  · simp [runCommands, perform_encode, e, rejected, hc] at h
  · exact ⟨u, hu⟩

/-- A sequence goes on after its first part, whose results come first. -/
theorem runCommands_append {out : List Block} (h : runCommands is s = some (out, t)) (js : List Instr) :
    runCommands (is ++ js) s = (runCommands js t).map (Prod.map (out ++ ·) id) := by
  induction is generalizing s out with
  | nil =>
    cases h
    exact Option.map_id'.symm
  | cons i is ih =>
    obtain ⟨u, hu⟩ := writes_of_runCommands_cons h
    rw [runCommands_cons hu, Option.map_eq_some_iff] at h
    obtain ⟨⟨out', t'⟩, hr, e⟩ := h
    cases e
    rw [List.cons_append, runCommands_cons hu, ih hr, Option.map_map, Prod.map_comp_map]
    simp [Function.comp_def]

/-! ### The commands of a streaming call -/

/-- CTRADD of a number of one lane, with a counter to add to. -/
theorem writes_addCommand {x : Num128} {n : Nat} (hn : n < 2 ^ 64) (hx : s.ctr = some x) :
    Writes s (addCommand n) (s.setCtr (x + BitVec.ofNat 128 n)) := by
  have small : (BitVec.ofNat 128 n).toNat < 2 ^ 64 := by
    rw [BitVec.toNat_ofNat]
    omega
  have h := Writes.ctradd (upperZero_toLE small) hx
  rwa [add128_eq_add, setWidth_le64Low_toLE small] at h

/-- A unit command with KS[0] and a tweak. -/
theorem writes_unitCommand (hK : s.ks0 = some K) (hT : s.twk = some T) (B : Block) :
    Writes s (unitCommand d B) (s.afterUnit d K T B) := by
  cases d
  · exact .xtse hK hT
  · exact .xtsd hK hT

/-- A unit command that completes has found KS[0] and a tweak. -/
theorem loaded_of_writes_unitCommand {B : Block} (h : Writes s (unitCommand d B) u) :
    ∃ K T, s.ks0 = some K ∧ s.twk = some T := by
  cases d <;> cases h <;> exact ⟨_, _, ‹_›, ‹_›⟩

/-! ### Blocks of commands -/

/-- The registers that a streaming call keeps are in `t` as in `s`: the schedules, the error fields and, between the additions
to it, the counter. -/
structure Kept (s t : State) : Prop where
  ks0 : t.ks0 = s.ks0
  ks1 : t.ks1 = s.ks1
  ctr : t.ctr = s.ctr
  err : t.err = s.err
  lastErr : t.lastErr = s.lastErr

theorem Kept.refl (s : State) : Kept s s := ⟨rfl, rfl, rfl, rfl, rfl⟩

theorem Kept.trans (h : Kept s t) (h' : Kept t u) : Kept s u :=
  ⟨h'.ks0.trans h.ks0, h'.ks1.trans h.ks1, h'.ctr.trans h.ctr, h'.err.trans h.err, h'.lastErr.trans h.lastErr⟩

/-- Adding to the counter keeps the rest. -/
theorem Kept.setCtr (h : Kept s t) (x : Num128) : Kept (s.setCtr x) (t.setCtr x) :=
  ⟨h.ks0, h.ks1, rfl, h.err, h.lastErr⟩

/-- `j` doublings double the tweak `j` times and give no result. -/
theorem runCommands_replicate_twdbl (j : Nat) (hT : s.twk = some T) :
    ∃ t, runCommands (List.replicate j .twdbl) s = some ([], t) ∧ Kept s t ∧ t.twk = some (double^[j] T) := by
  induction j generalizing s T with
  | zero => exact ⟨s, rfl, Kept.refl s, hT⟩
  | succ j ih =>
    obtain ⟨t, hr, hk, ht⟩ := ih (s := (s.setTwk (double T)).respond .ok) rfl
    have doubled : Kept s ((s.setTwk (double T)).respond .ok) := ⟨rfl, rfl, rfl, rfl, rfl⟩
    refine ⟨t, ?_, doubled.trans hk, ht⟩
    rw [List.replicate_succ, runCommands_cons (.twdbl hT), hr]
    rfl

/-- The results of consecutive units from the tweak `T` on: unit `j` is transformed under `T` doubled `j` times. -/
def unitResults (f : Block → Block) (T : Block) (units : List Block) : List Block :=
  units.mapIdx fun j => unitStep f (double^[j] T)

theorem unitResults_cons (f : Block → Block) (T B : Block) (units : List Block) :
    unitResults f T (B :: units) = unitStep f T B :: unitResults f (double T) units := List.mapIdx_cons

@[simp] theorem length_unitResults (f : Block → Block) (T : Block) (units : List Block) :
    (unitResults f T units).length = units.length := List.length_mapIdx

/-- The results from unit `j` on are those of the units from `j` on, under the tweak doubled `j` times. -/
theorem drop_unitResults (f : Block → Block) (T : Block) (units : List Block) (j : Nat) :
    (unitResults f T units).drop j = unitResults f (double^[j] T) (units.drop j) := by
  apply List.ext_getElem
  · simp
  · intro k _ _
    simp [unitResults, Nat.add_comm j, Function.iterate_add_apply]

/-- Deciphering the results of enciphered units under the same tweak gives the units back. -/
theorem unitResults_invCipher_cipher (K : Schedule) (T : Block) (units : List Block) :
    unitResults (invCipher K) T (unitResults (cipher K) T units) = units := by
  apply List.ext_getElem
  · simp
  · intro k _ _
    simp [unitResults, unitStep_invCipher_cipher]

/-- Consecutive unit commands give the results of their units and double the tweak once for each. -/
theorem runCommands_units (units : List Block) (hK : s.ks0 = some K) (hT : s.twk = some T) :
    ∃ t, runCommands (units.map (unitCommand d)) s = some (unitResults (unitCipher d K) T units, t) ∧ Kept s t ∧
      t.twk = some (double^[units.length] T) := by
  induction units generalizing s T with
  | nil => exact ⟨s, rfl, Kept.refl s, hT⟩
  | cons B units ih =>
    obtain ⟨t, hr, hk, ht⟩ := ih (s := (s.afterUnit d K T B).respond .ok) hK rfl
    have first : Kept s ((s.afterUnit d K T B).respond .ok) := ⟨rfl, rfl, rfl, rfl, rfl⟩
    refine ⟨t, ?_, first.trans hk, ht⟩
    have kept : keptResult (unitCommand d B) (s.afterUnit d K T B) = [unitStep (unitCipher d K) T B] := by
      cases d <;> rfl
    rw [List.map_cons, runCommands_cons (writes_unitCommand hK hT B), hr, unitResults_cons, kept]
    rfl

/-- Settles O49: after the tweak is derived, both sequences give the results that the position of each unit determines; a sector
without units leaves nothing to skip. -/
theorem randomAccessByDoubling : Obligations.RandomAccessByDoubling := by
  intro d units out j s t h hj
  obtain ⟨s₁, hw⟩ := writes_of_runCommands_cons h
  obtain ⟨T, hT⟩ : ∃ T, s₁.twk = some T := by
    cases hw
    exact ⟨_, rfl⟩
  have go (is : List Instr) : runCommands (.twgen :: is) s = runCommands is (s₁.respond .ok) :=
    (runCommands_cons hw is).trans Option.map_id'
  rw [go] at h
  rw [List.cons_append, go]
  cases units with
  | nil =>
    obtain rfl : j = 0 := Nat.le_zero.1 hj
    exact ⟨t, h, rfl⟩
  | cons B units =>
    obtain ⟨_, hB⟩ := writes_of_runCommands_cons h
    obtain ⟨K, -, hK, -⟩ := loaded_of_writes_unitCommand hB
    obtain ⟨_, hr, -, ht⟩ := runCommands_units (d := d) (B :: units) hK hT
    obtain ⟨s₂, hr₂, hk₂, hT₂⟩ := runCommands_replicate_twdbl j (s := s₁.respond .ok) hT
    obtain ⟨t', hr', -, ht'⟩ := runCommands_units (d := d) ((B :: units).drop j) (hk₂.ks0.trans hK) hT₂
    cases h.symm.trans hr
    refine ⟨t', ?_, ?_⟩
    · rw [runCommands_append hr₂, hr', drop_unitResults]
      rfl
    · rw [ht', ht, ← Function.iterate_add_apply, List.length_drop, Nat.sub_add_cancel hj]

end Sys2Proof.Machine
end

section
/-! The bytes of units and the units of a buffer (43_xtsn_unit.md R123). -/

namespace Sys2Proof.Machine

@[simp] theorem length_unitsOf (buffer : List Byte) : (unitsOf buffer).length = buffer.length / 16 := by
  simp [unitsOf]

@[simp] theorem length_bytesOf (units : List Block) : (bytesOf units).length = 16 * units.length := by
  simp [bytesOf, List.length_flatMap, Nat.mul_comm]

theorem bytesOf_cons (B : Block) (units : List Block) : bytesOf (B :: units) = B.toList ++ bytesOf units := List.flatMap_cons

/-- The first unit of a buffer that begins with a Block is the Block. -/
theorem unitAt_zero_append (B : Block) (rest : List Byte) : unitAt (B.toList ++ rest) 0 = B := by
  apply Vector.ext
  intro i hi
  have inside : i < B.toList.length := by simpa using hi
  simp [unitAt, List.getElem?_append_left inside, hi]

/-- Past the first Block the units of a buffer are those of the rest. -/
theorem unitAt_add_append (B : Block) (rest : List Byte) (pos : Nat) :
    unitAt (B.toList ++ rest) (16 + pos) = unitAt rest pos := by
  apply Vector.ext
  intro i hi
  have outside : B.toList.length ≤ 16 + pos + i := by simp; omega
  have place : 16 + pos + i - B.toList.length = pos + i := by simp; omega
  simp only [unitAt, Vector.getElem_ofFn, List.getD_append_right _ _ _ _ outside, place]

/-- A buffer that begins with a Block has it as its first unit and the units of the rest after it. -/
theorem unitsOf_append (B : Block) (rest : List Byte) : unitsOf (B.toList ++ rest) = B :: unitsOf rest := by
  have count : (B.toList ++ rest).length / 16 = rest.length / 16 + 1 := by simp
  rw [unitsOf, count, List.range_succ_eq_map, List.map_cons, List.map_map, Nat.mul_zero, unitAt_zero_append]
  refine congrArg (B :: ·) (List.map_congr_left fun j _ => ?_)
  rw [Function.comp_apply, Nat.mul_succ, Nat.add_comm, unitAt_add_append]

/-- The units of the bytes of units are the units. -/
@[simp] theorem unitsOf_bytesOf (units : List Block) : unitsOf (bytesOf units) = units := by
  induction units with
  | nil => rfl
  | cons B units ih => rw [bytesOf_cons, unitsOf_append, ih]

/-- A buffer of whole units is the bytes of units. -/
theorem exists_bytesOf {n : Nat} {buffer : List Byte} (h : buffer.length = 16 * n) : ∃ units, bytesOf units = buffer := by
  induction n generalizing buffer with
  | zero => exact ⟨[], (List.eq_nil_of_length_eq_zero h).symm⟩
  | succ n ih =>
    obtain ⟨units, hu⟩ := ih (buffer := buffer.drop 16) (by simp; omega)
    obtain ⟨B, hB⟩ : ∃ B : Block, B.toList = buffer.take 16 := ⟨⟨(buffer.take 16).toArray, by simp; omega⟩, by simp⟩
    exact ⟨B :: units, by rw [bytesOf_cons, hB, hu, List.take_append_drop]⟩

/-- The bytes of the units of a buffer of whole units are the buffer. -/
theorem bytesOf_unitsOf {buffer : List Byte} (h : buffer.length % 16 = 0) : bytesOf (unitsOf buffer) = buffer := by
  obtain ⟨units, rfl⟩ := exists_bytesOf (n := buffer.length / 16) (buffer := buffer) (by omega)
  rw [unitsOf_bytesOf]

end Sys2Proof.Machine
end

section
/-! The sectors of a streaming call (43_xtsn_unit.md R123-R125). -/

namespace Sys2Proof.Machine

variable {s t u : State} {K0 K1 : Schedule} {x : Num128} {d d' : Direction}

/-- The commands of one sector entered after `j` of its units: derive the tweak, double it `j` times, perform the units, advance
the counter (R123). -/
def sectorCommands (d : Direction) (j : Nat) (units : List Block) : List Instr :=
  .twgen :: List.replicate j .twdbl ++ units.map (unitCommand d) ++ [addCommand 1]

/-- The tweak of the unit at which a sector is entered (R115, R126). -/
def entryTweak (K1 : Schedule) (x : Num128) (j : Nat) : Block := double^[j] (cipher K1 (tweakBlock x))

/-- The schedules and the counter are loaded: all that the sectors of a call read before they write it. -/
structure Ready (K0 K1 : Schedule) (x : Num128) (s : State) : Prop where
  ks0 : s.ks0 = some K0
  ks1 : s.ks1 = some K1
  ctr : s.ctr = some x

theorem Ready.of_kept (h : Ready K0 K1 x s) (hk : Kept s t) : Ready K0 K1 x t :=
  ⟨hk.ks0.trans h.ks0, hk.ks1.trans h.ks1, hk.ctr.trans h.ctr⟩

/-- Writing the counter leaves the schedules loaded. -/
theorem Ready.setCtr (h : Ready K0 K1 x s) (y : Num128) : Ready K0 K1 y (s.setCtr y) := ⟨h.ks0, h.ks1, rfl⟩

/-- Answering a command changes none of what a call keeps. -/
theorem kept_respond (s : State) (c : Code) : Kept s (s.respond c) := ⟨rfl, rfl, rfl, rfl, rfl⟩

/-- An addition to the counter gives no result, and the sequence goes on with the sum. -/
theorem runCommands_addCommand_cons {n : Nat} (hn : n < 2 ^ 64) (h : Ready K0 K1 x s) (is : List Instr) :
    runCommands (addCommand n :: is) s = runCommands is ((s.setCtr (x + BitVec.ofNat 128 n)).respond .ok) :=
  (runCommands_cons (writes_addCommand hn h.ctr) is).trans Option.map_id'

/-- The commands of a sector complete, give the results of its units, and add one to the counter. -/
theorem runCommands_sectorCommands (h : Ready K0 K1 x s) (d : Direction) (j : Nat) (units : List Block) :
    ∃ t, runCommands (sectorCommands d j units) s =
        some (unitResults (unitCipher d K0) (entryTweak K1 x j) units, t) ∧ Kept (s.setCtr (x + 1)) t := by
  have derive : runCommands [.twgen] s = some ([], (s.setTwk (cipher K1 (tweakBlock x))).respond .ok) :=
    runCommands_cons (.twgen h.ks1 h.ctr) []
  have derived : Kept s ((s.setTwk (cipher K1 (tweakBlock x))).respond .ok) := ⟨rfl, rfl, rfl, rfl, rfl⟩
  obtain ⟨s₂, hr₂, hk₂, hT₂⟩ := runCommands_replicate_twdbl j
    (s := (s.setTwk (cipher K1 (tweakBlock x))).respond .ok) rfl
  obtain ⟨s₃, hr₃, hk₃, -⟩ := runCommands_units (d := d) units (hk₂.ks0.trans h.ks0) hT₂
  have kept : Kept s s₃ := (derived.trans hk₂).trans hk₃
  refine ⟨_, ?_, (kept.setCtr (x + 1)).trans (kept_respond _ .ok)⟩
  have blocks : sectorCommands d j units =
      [.twgen] ++ (List.replicate j .twdbl ++ (units.map (unitCommand d) ++ [addCommand 1])) := by
    simp [sectorCommands]
  rw [blocks, runCommands_append derive, runCommands_append hr₂, runCommands_append hr₃,
    runCommands_addCommand_cons (by decide) (h.of_kept kept)]
  simp [entryTweak, runCommands]

/-- Two sequences that differ in the direction and the units alone: additions to the counter and sectors, each entered after as
many units in both and with as many units to perform. `units` and `units'` are the units they perform, in order. -/
inductive SameSectors (d d' : Direction) : List Instr → List Block → List Instr → List Block → Prop
  | nil : SameSectors d d' [] [] [] []
  | advance {n is units is' units'} (hn : n < 2 ^ 64) (rest : SameSectors d d' is units is' units') :
      SameSectors d d' (addCommand n :: is) units (addCommand n :: is') units'
  | sector {is units is' units'} (j : Nat) {B B' : List Block} (hlen : B'.length = B.length)
      (rest : SameSectors d d' is units is' units') :
      SameSectors d d' (sectorCommands d j B ++ is) (B ++ units) (sectorCommands d' j B' ++ is') (B' ++ units')

variable {is is' : List Instr} {units units' : List Block}

/-- Every command of the sectors completes, with one result for each unit, and all but the counter is kept. -/
theorem SameSectors.completes (h : SameSectors d d' is units is' units') (hs : Ready K0 K1 x s) :
    ∃ out t y, runCommands is s = some (out, t) ∧ out.length = units.length ∧ Kept (s.setCtr y) t := by
  induction h generalizing s x with
  | nil => exact ⟨[], s, x, rfl, rfl, ⟨rfl, rfl, hs.ctr, rfl, rfl⟩⟩
  | advance hn _ ih =>
    rw [runCommands_addCommand_cons hn hs]
    obtain ⟨out, t, y, hr, hlen, hk⟩ := ih ((hs.setCtr _).of_kept (kept_respond _ .ok))
    exact ⟨out, t, y, hr, hlen, hk.ks0, hk.ks1, hk.ctr, hk.err, hk.lastErr⟩
  | @sector _ _ _ _ j B _ _ _ ih =>
    obtain ⟨s₁, hr₁, hk₁⟩ := runCommands_sectorCommands hs d j B
    obtain ⟨out, t, y, hr, hlen, hk⟩ := ih ((hs.setCtr _).of_kept hk₁)
    rw [runCommands_append hr₁, hr]
    exact ⟨_, t, y, rfl, by simp [hlen], (hk₁.setCtr y).trans hk⟩

/-- Where the first sequence enciphers and its results are the units of the second, which deciphers, the second gives back the
units of the first, from any state with the same schedules and counter. -/
theorem SameSectors.deciphers (h : SameSectors .encrypt .decrypt is units is' units') (hs : Ready K0 K1 x s)
    (hu : Ready K0 K1 x u) (hr : runCommands is s = some (units', t)) : ∃ v, runCommands is' u = some (units, v) := by
  induction h generalizing s u x t with
  | nil => exact ⟨u, rfl⟩
  | advance hn _ ih =>
    rw [runCommands_addCommand_cons hn hs] at hr
    rw [runCommands_addCommand_cons hn hu]
    exact ih ((hs.setCtr _).of_kept (kept_respond _ .ok)) ((hu.setCtr _).of_kept (kept_respond _ .ok)) hr
  | @sector _ _ _ _ j B B' hlen _ ih =>
    obtain ⟨s₁, hr₁, hks⟩ := runCommands_sectorCommands hs .encrypt j B
    obtain ⟨u₁, hr₂, hku⟩ := runCommands_sectorCommands hu .decrypt j B'
    rw [runCommands_append hr₁, Option.map_eq_some_iff] at hr
    obtain ⟨⟨out, t'⟩, hr, e⟩ := hr
    obtain ⟨rfl, rfl⟩ := List.append_inj (congrArg Prod.fst e) (by simp [hlen])
    obtain ⟨v, hv⟩ := ih ((hs.setCtr _).of_kept hks) ((hu.setCtr _).of_kept hku) hr
    rw [runCommands_append hr₂, hv]
    simp [unitCipher, unitResults_invCipher_cipher]

/-! ### The sectors of a call -/

/-- FullSectors performs all units of equally many in the same sectors, whatever their direction, when its bound on the number
of sectors is large enough. -/
theorem sameSectors_fullSectors (d d' : Direction) {perSector : Nat} (hp : 0 < perSector) {n : Nat} {units units' : List Block}
    (hn : units.length ≤ n) (hlen : units'.length = units.length) :
    SameSectors d d' (fullSectors d perSector n units) units (fullSectors d' perSector n units') units' := by
  induction n generalizing units units' with
  | zero =>
    obtain rfl := List.eq_nil_of_length_eq_zero (Nat.le_zero.1 hn)
    obtain rfl := List.eq_nil_of_length_eq_zero hlen
    exact .nil
  | succ n ih =>
    match units, units' with
    | [], [] => exact .nil
    | B :: units, B' :: units' =>
      have rest := ih (units := (B :: units).drop perSector) (units' := (B' :: units').drop perSector)
        (by simp at hn ⊢; omega) (by simp at hlen ⊢; omega)
      have sector := rest.sector 0 (B := (B :: units).take perSector) (B' := (B' :: units').take perSector)
        (by simp at hlen ⊢; omega)
      simpa only [List.take_append_drop, sectorCommands, List.replicate_zero, List.append_nil, List.append_assoc,
        List.cons_append, List.nil_append, fullSectors] using sector

variable {c : Call}

/-- What R124 asks of a call. -/
theorem Call.valid_iff : c.valid = true ↔
    c.buffer.length % 16 = 0 ∧ c.sectorSize.toNat % 16 = 0 ∧ c.sectorSize ≠ 0 ∧ c.skipBytes.toNat % 16 = 0 := by
  simp [Call.valid, and_assoc]

/-- A sector of a valid call holds a unit. -/
theorem Call.perSector_pos (h : c.valid = true) : 0 < c.sectorSize.toNat / 16 := by
  obtain ⟨-, whole, nonzero, -⟩ := Call.valid_iff.1 h
  have pos : c.sectorSize.toNat ≠ 0 := fun e => nonzero (BitVec.eq_of_toNat_eq e)
  omega

/-- The commands of a call after it has loaded the counter (R123). -/
def Call.sectors (c : Call) (units : List Block) : List Instr :=
  c.partialCommands units ++
    fullSectors c.direction (c.sectorSize.toNat / 16) units.length (units.drop c.partialUnits)

/-- A call with units loads the counter with its offset and goes on with the sectors. -/
theorem Call.runCommands_commands (h : unitsOf c.buffer ≠ []) (s : State) :
    runCommands c.commands s = runCommands (c.sectors (unitsOf c.buffer)) ((s.setCtr c.sectorOffset).respond .ok) := by
  have load := (runCommands_cons (s := s) (.ctrld (B := toLE c.sectorOffset)) (c.sectors (unitsOf c.buffer))).trans
    Option.map_id'
  rw [le128_toLE] at load
  rw [← load]
  exact congrArg (runCommands · s) (if_neg h)

/-- Without a skip PartialPrefix is empty. -/
theorem Call.partialCommands_of_no_skip (h : c.skipBytes = 0) (units : List Block) : c.partialCommands units = [] := if_pos h

/-- A skip that ends at a sector boundary only advances the counter. -/
theorem Call.partialCommands_of_boundary (h : c.skipBytes ≠ 0) (hr : c.remainder = 0) (units : List Block) :
    c.partialCommands units = [addCommand (c.skipBytes.toNat / c.sectorSize.toNat)] :=
  (if_neg h).trans (congrArg _ (if_pos hr))

/-- A skip that ends inside a sector advances the counter and performs what is left of the sector. -/
theorem Call.partialCommands_of_inside (h : c.skipBytes ≠ 0) (hr : c.remainder ≠ 0) (units : List Block) :
    c.partialCommands units = addCommand (c.skipBytes.toNat / c.sectorSize.toNat) ::
      sectorCommands c.direction (c.remainder / 16) (units.take c.partialUnits) :=
  (if_neg h).trans (congrArg _ (if_neg hr))

/-- A skip that ends inside no sector leaves all units to the full sectors. -/
theorem Call.partialUnits_of_boundary (h : c.remainder = 0) : c.partialUnits = 0 := if_pos h

/-- PartialPrefix performs its units of equally many in the same sector, before what follows it. -/
theorem Call.sameSectors_partialCommands (c : Call) (d' : Direction) {units units' : List Block}
    (hlen : units'.length = units.length)
    (rest : SameSectors c.direction d' is (units.drop c.partialUnits) is' (units'.drop c.partialUnits)) :
    SameSectors c.direction d' (c.partialCommands units ++ is) units
      (({ c with direction := d' } : Call).partialCommands units' ++ is') units' := by
  have whole : c.skipBytes.toNat / c.sectorSize.toNat < 2 ^ 64 := (Nat.div_le_self ..).trans_lt c.skipBytes.isLt
  by_cases hskip : c.skipBytes = 0
  · have boundary : c.remainder = 0 := by simp [Call.remainder, hskip]
    rw [Call.partialUnits_of_boundary boundary] at rest
    rw [Call.partialCommands_of_no_skip hskip, Call.partialCommands_of_no_skip (c := { c with direction := d' }) hskip]
    exact rest
  · by_cases hrem : c.remainder = 0
    · rw [Call.partialUnits_of_boundary hrem] at rest
      rw [Call.partialCommands_of_boundary hskip hrem,
        Call.partialCommands_of_boundary (c := { c with direction := d' }) hskip hrem]
      exact rest.advance whole
    · have sector := rest.sector (c.remainder / 16) (B := units.take c.partialUnits) (B' := units'.take c.partialUnits)
        (by simp [hlen])
      rw [List.take_append_drop, List.take_append_drop] at sector
      rw [Call.partialCommands_of_inside hskip hrem,
        Call.partialCommands_of_inside (c := { c with direction := d' }) hskip hrem]
      exact sector.advance whole

/-- Calls with equally many units and the same offset, sector size and skip perform them in the same sectors. -/
theorem Call.sameSectors (h : c.valid = true) (d' : Direction) {units units' : List Block}
    (hlen : units'.length = units.length) :
    SameSectors c.direction d' (c.sectors units) units (({ c with direction := d' } : Call).sectors units') units' := by
  refine c.sameSectors_partialCommands d' hlen ?_
  have full := sameSectors_fullSectors c.direction d' (Call.perSector_pos h) (n := units.length)
    (units := units.drop c.partialUnits) (units' := units'.drop c.partialUnits) (by simp) (by simp [hlen])
  rw [hlen]
  exact full

/-- A call without units issues no command and keeps the state (R123). -/
theorem Call.runCommands_commands_nil (h : unitsOf c.buffer = []) (s : State) : runCommands c.commands s = some ([], s) :=
  congrArg (runCommands · s) (if_pos h)

/-- A valid call runs its commands and returns the bytes of their results. -/
theorem Call.run_of_runCommands {out : List Block} (hv : c.valid = true) (h : runCommands c.commands s = some (out, t)) :
    c.run s = some (bytesOf out, t) := by
  simp [Call.run, hv, h]

/-- With both schedules loaded the commands of a valid call complete, with one result for each unit, and all but the counter is
kept. -/
theorem Call.commands_complete (hv : c.valid = true) (h0 : s.ks0 = some K0) (h1 : s.ks1 = some K1) :
    ∃ out t, runCommands c.commands s = some (out, t) ∧ out.length = (unitsOf c.buffer).length ∧
      ∃ y, Kept { s with ctr := y } t := by
  by_cases hne : unitsOf c.buffer = []
  · exact ⟨[], s, c.runCommands_commands_nil hne s, by rw [hne], s.ctr, Kept.refl s⟩
  · rw [Call.runCommands_commands hne]
    obtain ⟨out, t, y, hr, hlen, hk⟩ := (Call.sameSectors hv c.direction rfl).completes
      (s := (s.setCtr c.sectorOffset).respond .ok) ⟨h0, h1, rfl⟩
    exact ⟨out, t, hr, hlen, some y, hk.ks0, hk.ks1, hk.ctr, hk.err, hk.lastErr⟩

/-- Settles O50: the commands complete, and a valid buffer is as long as the bytes of its units. -/
theorem validCallCompletes : Obligations.ValidCallCompletes := by
  intro c s K0 K1 hv h0 h1
  obtain ⟨whole, -⟩ := Call.valid_iff.1 hv
  obtain ⟨out, t, hr, hlen, y, hk⟩ := Call.commands_complete hv h0 h1
  refine ⟨_, t, Call.run_of_runCommands hv hr, ?_, hk.ks0.trans h0, hk.ks1.trans h1, hk.err, hk.lastErr⟩
  rw [length_bytesOf, hlen, length_unitsOf]
  omega

/-- The commands of the call that decrypts the results of a valid encrypting call give back the units of the encrypting call. -/
theorem Call.commands_decipher (hv : c.valid = true) (hd : c.direction = .encrypt) (hs0 : s.ks0 = some K0)
    (hs1 : s.ks1 = some K1) (hu0 : u.ks0 = some K0) (hu1 : u.ks1 = some K1) {out : List Block}
    (hlen : out.length = (unitsOf c.buffer).length) (hr : runCommands c.commands s = some (out, t)) :
    ∃ v, runCommands ({ c with direction := .decrypt, buffer := bytesOf out } : Call).commands u =
      some (unitsOf c.buffer, v) := by
  have back : unitsOf ({ c with direction := .decrypt, buffer := bytesOf out } : Call).buffer = out := unitsOf_bytesOf out
  by_cases hne : unitsOf c.buffer = []
  · rw [hne] at hlen ⊢
    exact ⟨u, Call.runCommands_commands_nil (back.trans (List.eq_nil_of_length_eq_zero hlen)) u⟩
  · have hne' : out ≠ [] := fun e => hne (List.eq_nil_of_length_eq_zero (by rw [← hlen, e]; rfl))
    rw [Call.runCommands_commands hne] at hr
    rw [Call.runCommands_commands (fun e => hne' (back.symm.trans e)), back]
    have sectors := Call.sameSectors hv .decrypt hlen
    rw [hd] at sectors
    exact sectors.deciphers (s := (s.setCtr c.sectorOffset).respond .ok) ⟨hs0, hs1, rfl⟩ ⟨hu0, hu1, rfl⟩ hr

/-- Settles O51: the second call performs the first call's results as units in the same sectors, and its bytes are those of the
first call's units. -/
theorem callRoundTrip : Obligations.CallRoundTrip := by
  intro c s u K0 K1 hv hd hs0 hs1 hu0 hu1
  obtain ⟨whole, hsize⟩ := Call.valid_iff.1 hv
  obtain ⟨out, t, hr, hlen, -⟩ := Call.commands_complete hv hs0 hs1
  obtain ⟨v, hv'⟩ := Call.commands_decipher hv hd hs0 hs1 hu0 hu1 hlen hr
  have valid : ({ c with direction := .decrypt, buffer := bytesOf out } : Call).valid = true :=
    Call.valid_iff.2 ⟨by simp, hsize⟩
  refine ⟨bytesOf out, t, v, Call.run_of_runCommands hv hr, ?_⟩
  rw [Call.run_of_runCommands valid hv', bytesOf_unitsOf whole]

end Sys2Proof.Machine
end

section
/-! The meanings of NOP and STATRD (44_control.md R130, R131). -/

namespace Sys2Proof.Machine

/-- The bits of STATUS above ERR are 0 (10_state.md R27). -/
theorem State.status_getLsbD_of_sixteen_le (s : State) {k : Nat} (h : 16 ≤ k) : s.status.getLsbD k = false := by
  rw [State.status_getLsbD, if_neg (by omega), if_neg (by omega), if_neg (by omega)]

/-- The little-endian Block of a word holds the bytes of the word, from the low one up (00_scope.md R8). -/
theorem toLE_zeroExtend_getElem (w : Word) (i : Nat) (h : i < 16) :
    (toLE (w.zeroExtend 128))[i] = w.extractLsb' (8 * i) 8 := by
  rw [toLE_getElem, BitVec.extractLsb'_setWidth_of_le (by omega)]

/-- From byte 2 on, the bytes of STATUS are 0 (44_control.md R131). -/
theorem State.status_byte_of_two_le (s : State) {i : Nat} (h : 2 ≤ i) : s.status.extractLsb' (8 * i) 8 = 0 := by
  apply BitVec.eq_of_getLsbD_eq
  intro k hk
  simp [hk, s.status_getLsbD_of_sixteen_le (k := 8 * i + k) (by omega)]

/-- Settles O47: STATRD completes after writing the Block of STATUS, whose bytes are read off that number. -/
theorem statrdReadsStatusBefore : Obligations.StatrdReadsStatusBefore := by
  intro s
  have byte := toLE_zeroExtend_getElem s.status
  have high (i : Nat) (h : i < 16) (h2 : 2 ≤ i) : (toLE (s.status.zeroExtend 128))[i] = 0 :=
    (byte i h).trans (s.status_byte_of_two_le h2)
  exact ⟨⟨_, _, rfl, rfl, byte 0 (by decide), byte 1 (by decide), high, s.setRes_status _⟩,
    decode_plain_row (opc := 0xF0) rfl, rejectsReserved_of_mem (by decide) s⟩

/-- The response after a completion carries code 0 and RES (30_encoding.md R56, 60_exceptions.md R141). -/
theorem State.respond_ok_response (s : State) : (s.respond .ok).response = some ⟨0, s.res⟩ := rfl

/-- Settles O46: NOP completes with no write, whatever the state. -/
theorem nopOnlyResponds : Obligations.NopOnlyResponds := by
  intro s
  exact ⟨⟨_, rfl, rfl, s.respond_status .ok, s.respond_ok_response⟩, fun _ => decode_eq_nop.2 rfl,
    rejectsReserved_of_mem (by decide) s⟩

end Sys2Proof.Machine
end

section
/-! Rejections: the order of the checks, what a rejection changes, and what ERR and LASTERR keep (60_exceptions.md R140, R142,
R143). -/

namespace Sys2Proof.Machine

variable {s : State} {c : Code}

/-! ### The check of a request -/

/-- Checks 3 to 6 of R142, instruction by instruction: the first cause for which it is rejected, `ok` if there is none. -/
def cause (s : State) (i : Instr) : Code :=
  match i with
  | .nop | .keyld _ _ | .ctrld _ | .twld _ | .statrd => .ok
  | .enc slot _ | .dec slot _ => if s.key slot = none then .eNokey else .ok
  | .ctradd B => if upperZero B = false then .eOpnd else if s.ctr = none then .eNoctr else .ok
  | .ctrrd => if s.ctr = none then .eNoctr else .ok
  | .twrd | .twdbl => if s.twk = none then .eNotwk else .ok
  | .twgen => if s.key .t = none then .eNokey else if s.ctr = none then .eNoctr else .ok
  | .xtse _ | .xtsd _ => if s.key .d = none then .eNokey else if s.twk = none then .eNotwk else .ok

/-- The valid bit of a slot says that the slot holds a schedule (10_state.md R26). -/
theorem State.keyValid_eq_isSome (s : State) (slot : Slot) : s.keyValid slot = (s.key slot).isSome := by
  cases slot <;> rfl

/-- KSEL of ENC selects its slot (30_encoding.md R50). -/
theorem slotOf_selectorOf_enc (slot : Slot) (B : Block) : slotOf (selectorOf (.enc slot B)) = slot := by cases slot <;> rfl

/-- KSEL of DEC selects its slot (30_encoding.md R50). -/
theorem slotOf_selectorOf_dec (slot : Slot) (B : Block) : slotOf (selectorOf (.dec slot B)) = slot := by cases slot <;> rfl

theorem check_of_unassigned {r : Request} (h : opcOf r.cmd ∉ assignedOpcodes) : check s r = .eOpc := if_pos h

theorem check_of_reserved {r : Request} (h : opcOf r.cmd ∈ assignedOpcodes)
    (hr : rsvdOf r.cmd ≠ 0 ∨ (kselOf r.cmd = 1 ∧ opcOf r.cmd ∉ selectorOpcodes)) : check s r = .eRsvd :=
  (if_neg (not_not_intro h)).trans (if_pos hr)

/-- A request that decodes passes checks 1 and 2, and its later checks are those of its instruction. -/
theorem check_of_decode {r : Request} {i : Instr} (h : decode r = .ok i) : check s r = cause s i := by
  obtain ⟨hcmd, hopnd⟩ := encoding_of_decode h
  have er : rsvdOf r.cmd = 0 := by simp [hcmd, encode]
  have eo : opcOf r.cmd = opcodeOf i := by simp [hcmd, encode]
  have ek : kselOf r.cmd = selectorOf i := by simp [hcmd, encode]
  simp only [check, er, eo, ek]
  cases i with
  | keyld | enc | dec =>
    simp [cause, opcodeOf, needsKey, assignedOpcodes, selectorOpcodes, slotOf_selectorOf_enc, slotOf_selectorOf_dec,
      State.keyValid_eq_isSome]
  | ctradd B =>
    have hB : r.opnd = B := hopnd rfl
    simp [cause, hB, opcodeOf, selectorOf, needsKey, assignedOpcodes, State.cv]
  | _ =>
    simp [cause, opcodeOf, selectorOf, needsKey, assignedOpcodes, State.keyValid_eq_isSome, State.cv, State.tv,
      -State.key_d, -State.key_t]

/-! ### The answer to a request -/

/-- A result answers with a code: the response carries it, and if it is not OK the next state is the rejection with it. -/
def AnswersWith (s : State) (c : Code) (r : Result) : Prop :=
  ∃ t, r = .next t ∧ t.rsp = some c ∧ (c ≠ .ok → t = s.reject c)

theorem answersWith_rejected (s : State) (c : Code) : AnswersWith s c (rejected s c) := ⟨_, rfl, rfl, fun _ => rfl⟩

theorem answersWith_complete (s u : State) : AnswersWith s .ok (complete u) := ⟨_, rfl, rfl, (absurd rfl ·)⟩

theorem answersWith_needKey {slot : Slot} {k : Schedule → Result} (h : ∀ K, AnswersWith s c (k K)) :
    AnswersWith s (if s.key slot = none then .eNokey else c) (needKey s slot k) := by
  cases hK : s.key slot with
  | none => exact needKey_of_none hK ▸ answersWith_rejected s .eNokey
  | some K => exact needKey_of_some hK ▸ h K

theorem answersWith_needCtr {k : Num128 → Result} (h : ∀ x, AnswersWith s c (k x)) :
    AnswersWith s (if s.ctr = none then .eNoctr else c) (needCtr s k) := by
  cases hx : s.ctr with
  | none => exact needCtr_of_none hx ▸ answersWith_rejected s .eNoctr
  | some x => exact needCtr_of_some hx ▸ h x

theorem answersWith_needTwk {k : Block → Result} (h : ∀ T, AnswersWith s c (k T)) :
    AnswersWith s (if s.twk = none then .eNotwk else c) (needTwk s k) := by
  cases hT : s.twk with
  | none => exact needTwk_of_none hT ▸ answersWith_rejected s .eNotwk
  | some T => exact needTwk_of_some hT ▸ h T

/-- Every instruction makes its checks in the order of R142. -/
theorem exec_answersWith (i : Instr) (s : State) : AnswersWith s (cause s i) (exec i s) := by
  have done (u : State) := answersWith_complete s u
  cases i with
  | nop | keyld | ctrld | twld | statrd => exact done _
  | enc | dec => exact answersWith_needKey fun _ => done _
  | ctradd B =>
    simp only [exec, execCtradd, cause]
    cases upperZero B with
    | false => exact answersWith_rejected s .eOpnd
    | true => exact answersWith_needCtr fun _ => done _
  | ctrrd => exact answersWith_needCtr fun _ => done _
  | twrd | twdbl => exact answersWith_needTwk fun _ => done _
  | twgen => exact answersWith_needKey fun _ => answersWith_needCtr fun _ => done _
  | xtse | xtsd => exact answersWith_needKey fun _ => answersWith_needTwk fun _ => done _

/-- Settles O6: a request fails check 1, or check 2, or decodes to an instruction, which makes the later checks. -/
theorem firstFailingCheckIsReported : Obligations.FirstFailingCheckIsReported := by
  intro s r
  by_cases hopc : opcOf r.cmd ∈ assignedOpcodes
  · by_cases hr : rsvdOf r.cmd ≠ 0 ∨ (kselOf r.cmd = 1 ∧ opcOf r.cmd ∉ selectorOpcodes)
    · rw [check_of_reserved hopc hr, perform_of_error (decode_of_reserved hopc hr)]
      exact answersWith_rejected s .eRsvd
    · rw [not_or, not_not, not_and, not_not] at hr
      obtain ⟨h0, hsel⟩ := hr
      obtain ⟨i, hi⟩ := exists_decode_iff_legalFields.2 ⟨h0, hopc, (kselOf_cases r.cmd).imp_right hsel⟩
      rw [check_of_decode hi, perform_of_ok hi]
      exact exec_answersWith i s
  · rw [check_of_unassigned hopc, perform_of_error (decode_of_unassigned hopc)]
    exact answersWith_rejected s .eOpc

/-! ### After a rejection -/

/-- A rejection changes STATUS in ERR, bit 15, and in LASTERR, bits 11:8, alone (R140). -/
theorem State.reject_status (s : State) (c : Code) :
    (s.reject c).status = (s.status &&& 0xFFFFF0FF#32) ||| 0x00008000#32 ||| ((codeBits c).setWidth 32 <<< 8) := by
  apply BitVec.eq_of_getLsbD_eq
  intro k hk
  simp only [BitVec.getLsbD_or, BitVec.getLsbD_and, State.status_getLsbD]
  interval_cases k <;> simp

/-- Settles O7: the answer to a check that fails is its rejection, and whatever is performed next is answered too. -/
theorem rejectionWritesOnlyStatus : Obligations.RejectionWritesOnlyStatus := by
  rintro s r c rfl hc
  obtain ⟨t, ht, -, hrej⟩ := firstFailingCheckIsReported s r
  obtain rfl := hrej hc
  refine ⟨_, ht, rfl, s.reject_status _, rfl, rfl, fun r' => ?_⟩
  obtain ⟨u, hu, -⟩ := firstFailingCheckIsReported (s.reject (check s r)) r'
  exact ⟨u, hu⟩

/-- Settles O8: a rejection records its code, and a completion leaves both fields. -/
theorem errorStatusIsSticky : Obligations.ErrorStatusIsSticky := by
  intro s t r h
  obtain ⟨c, hc, rfl⟩ | completes := perform_answer h
  · exact ⟨fun _ => rfl, fun hok => absurd (Option.some.inj hok) hc, fun _ hc' _ => ⟨rfl, Option.some.inj hc'⟩, rfl, rfl⟩
  · refine ⟨completes.err.trans, fun _ => ⟨completes.err, completes.lastErr⟩, fun c' hc' hne => ?_, rfl, rfl⟩
    exact absurd (Option.some.inj (hc'.symm.trans completes.rsp)) hne

/-- Settles O18: the idle step. -/
theorem idleBlockKeepsState : Obligations.IdleBlockKeepsState := by
  intro s h
  simp [step, serve, h]

end Sys2Proof.Machine
end

section
/-! What a command shows of the schedules (10_state.md R21, 60_exceptions.md R146). -/

namespace Sys2Proof.Machine

variable {s s' : State} {r r' : Result}

/-- The states differ at most in the contents of loaded schedules and in what the host has yet to issue: the readable registers,
the error fields, the response and the valid bits of the slots are the same. -/
structure SameReadable (s s' : State) : Prop where
  ctr : s'.ctr = s.ctr
  twk : s'.twk = s.twk
  res : s'.res = s.res
  err : s'.err = s.err
  lastErr : s'.lastErr = s.lastErr
  rsp : s'.rsp = s.rsp
  loaded : ∀ slot, (s'.key slot).isSome = (s.key slot).isSome

/-- STATUS tells only that a schedule is loaded. -/
theorem SameReadable.status (h : SameReadable s s') : s'.status = s.status := by
  refine s.status_congr s' ?_ h.err h.lastErr
  have h0 : s'.k0v = s.k0v := h.loaded .d
  have h1 : s'.k1v = s.k1v := h.loaded .t
  simp only [State.validBits, h0, h1, State.cv, State.tv, State.rv, h.ctr, h.twk, h.res]

theorem SameReadable.respond (h : SameReadable s s') (c : Code) : SameReadable (s.respond c) (s'.respond c) :=
  { h with rsp := rfl, loaded := by simpa using h.loaded }

theorem SameReadable.reject (h : SameReadable s s') (c : Code) : SameReadable (s.reject c) (s'.reject c) :=
  { h with err := rfl, lastErr := rfl, rsp := rfl, loaded := by simpa using h.loaded }

theorem SameReadable.setCtr (h : SameReadable s s') (x : Num128) : SameReadable (s.setCtr x) (s'.setCtr x) :=
  { h with ctr := rfl, loaded := by simpa using h.loaded }

theorem SameReadable.setTwk (h : SameReadable s s') (T : Block) : SameReadable (s.setTwk T) (s'.setTwk T) :=
  { h with twk := rfl, loaded := by simpa using h.loaded }

theorem SameReadable.setRes (h : SameReadable s s') (B : Block) : SameReadable (s.setRes B) (s'.setRes B) :=
  { h with res := rfl, loaded := by simpa using h.loaded }

theorem SameReadable.setKey (h : SameReadable s s') (slot : Slot) (K : Schedule) :
    SameReadable (s.setKey slot K) (s'.setKey slot K) where
  ctr := by simp [h.ctr]
  twk := by simp [h.twk]
  res := by simp [h.res]
  err := by simp [h.err]
  lastErr := by simp [h.lastErr]
  rsp := by simp [h.rsp]
  loaded slot' := by
    rw [State.setKey_key, State.setKey_key]
    split
    · rfl
    · exact h.loaded slot'

/-- Both results are next states, with the same readable contents. -/
def AnswerAlike (r r' : Result) : Prop := ∃ t t', r = .next t ∧ r' = .next t' ∧ SameReadable t t'

theorem SameReadable.complete (h : SameReadable s s') : AnswerAlike (complete s) (complete s') :=
  ⟨_, _, rfl, rfl, h.respond .ok⟩

theorem SameReadable.rejected (h : SameReadable s s') (c : Code) : AnswerAlike (rejected s c) (rejected s' c) :=
  ⟨_, _, rfl, rfl, h.reject c⟩

theorem SameReadable.needCtr (h : SameReadable s s') {k k' : Num128 → Result} (hk : ∀ x, AnswerAlike (k x) (k' x)) :
    AnswerAlike (needCtr s k) (needCtr s' k') := by
  cases hx : s.ctr with
  | none => rw [needCtr_of_none hx, needCtr_of_none (h.ctr.trans hx)]; exact h.rejected .eNoctr
  | some x => rw [needCtr_of_some hx, needCtr_of_some (h.ctr.trans hx)]; exact hk x

theorem SameReadable.needTwk (h : SameReadable s s') {k k' : Block → Result} (hk : ∀ T, AnswerAlike (k T) (k' T)) :
    AnswerAlike (needTwk s k) (needTwk s' k') := by
  cases hT : s.twk with
  | none => rw [needTwk_of_none hT, needTwk_of_none (h.twk.trans hT)]; exact h.rejected .eNotwk
  | some T => rw [needTwk_of_some hT, needTwk_of_some (h.twk.trans hT)]; exact hk T

/-- The instruction runs neither the cipher nor its inverse. -/
def RunsNoCipher (i : Instr) : Prop :=
  (∀ k B, i ≠ .enc k B) ∧ (∀ k B, i ≠ .dec k B) ∧ i ≠ .twgen ∧ (∀ B, i ≠ .xtse B) ∧ ∀ B, i ≠ .xtsd B

/-- Without the cipher, states that read alike answer alike. -/
theorem SameReadable.exec (h : SameReadable s s') {i : Instr} (hi : RunsNoCipher i) : AnswerAlike (exec i s) (exec i s') := by
  obtain ⟨henc, hdec, htwgen, hxtse, hxtsd⟩ := hi
  cases i with
  | nop => exact h.complete
  | keyld => exact (h.setKey ..).complete
  | ctrld => exact (h.setCtr _).complete
  | ctradd B =>
    simp only [Machine.exec, execCtradd]
    split
    · exact h.needCtr fun _ => (h.setCtr _).complete
    · exact h.rejected .eOpnd
  | ctrrd => exact h.needCtr fun _ => (h.setRes _).complete
  | twld => exact (h.setTwk _).complete
  | twrd => exact h.needTwk fun _ => (h.setRes _).complete
  | twdbl => exact h.needTwk fun _ => (h.setTwk _).complete
  | statrd =>
    simp only [Machine.exec, execStatrd, h.status]
    exact (h.setRes _).complete
  | enc => exact absurd rfl (henc _ _)
  | dec => exact absurd rfl (hdec _ _)
  | twgen => exact absurd rfl htwgen
  | xtse => exact absurd rfl (hxtse _)
  | xtsd => exact absurd rfl (hxtsd _)

/-- Settles O16: the two states read alike, so their next states do. -/
theorem schedulesAreWriteOnly : Obligations.SchedulesAreWriteOnly := by
  intro i s K0 K1 henc hdec htwgen hxtse hxtsd h0 h1
  have alike : SameReadable s { s with ks0 := K0, ks1 := K1 } :=
    ⟨rfl, rfl, rfl, rfl, rfl, rfl, fun slot => by cases slot with | d => exact h0 | t => exact h1⟩
  obtain ⟨t, t', ht, ht', same⟩ := alike.exec ⟨henc, hdec, htwgen, hxtse, hxtsd⟩
  exact ⟨t, t', ht, ht', same.ctr, same.twk, same.res, same.rsp, same.status⟩

end Sys2Proof.Machine
end

section
/-! Reset, hazards and the host's sequence of commands (70_reset_and_hazards.md R160, R166-R168). -/

namespace Sys2Proof.Machine

variable {s t : State}

/-! ### The events of the host that are no command -/

/-- A step at a reset leaves the reset state, with what the host does next. -/
theorem step_of_reset {a : Option Request} {rest : List Event} (h : s.host = .reset a :: rest) :
    step s = .next (State.reset.withHost rest) := by
  rw [step, serve, h]
  rfl

/-- Settles O19: the step at an overlapped command. -/
theorem overlappingHostIsRefused : Obligations.OverlappingHostIsRefused := by
  intro s r rest h
  rw [step, serve, h]

/-! ### What the answer to a command keeps -/

/-- An answered command clears neither ERR nor LASTERR. -/
theorem Answer.keeps_errors (h : Answer s t) :
    (s.err = true → t.err = true) ∧ (s.lastErr ≠ .ok → t.lastErr ≠ .ok) := by
  obtain ⟨c, hc, rfl⟩ | completes := h
  · exact ⟨fun _ => rfl, fun _ => hc⟩
  · rw [completes.err, completes.lastErr]
    exact ⟨id, id⟩

/-- An answered command leaves what the host has yet to issue. -/
theorem Answer.host_eq (h : Answer s t) : t.host = s.host := by
  obtain ⟨c, -, rfl⟩ | completes := h
  · rfl
  · exact completes.host

/-- The response carries the code on RSP with the content of RES (30_encoding.md R56). -/
theorem State.response_of_rsp {c : Code} (h : s.rsp = some c) : s.response = some ⟨codeBits c, s.res⟩ := by
  rw [State.response, h, Option.map_some]

/-- Settles O10: the step at a reset, and a step that serves none is idle or answers a command, which keeps both fields. -/
theorem resetAbandonsCommand : Obligations.ResetAbandonsCommand := by
  refine ⟨fun s a rest h => ⟨_, step_of_reset h, rfl, resetLeavesNoValue.1, rfl⟩, fun s t hs cleared => ?_⟩
  have not_kept : ¬ ((s.err = true → t.err = true) ∧ (s.lastErr ≠ .ok → t.lastErr ≠ .ok)) := by
    rintro ⟨hErr, hLast⟩
    obtain ⟨he, he'⟩ | ⟨hl, hl'⟩ := cleared
    · exact absurd (hErr he) (by simp [he'])
    · exact hLast hl hl'
  obtain ⟨-, rfl⟩ | ⟨a, rest, e, -⟩ | ⟨r, rest, -, hp⟩ := step_eq_next hs
  · exact absurd ⟨id, id⟩ not_kept
  · exact ⟨a, rest, e⟩
  · exact absurd (perform_answer hp).keeps_errors not_kept

/-- Settles O17: performing the command answers with the code of its first failing check, or OK. -/
theorem everyCommandIsAnswered : Obligations.EveryCommandIsAnswered := by
  intro s r rest h
  obtain ⟨t, ht, hrsp, -⟩ := firstFailingCheckIsReported (s.withHost rest) r
  exact ⟨t, _, (step_of_command h).trans ht, hrsp, State.response_of_rsp hrsp, (perform_answer ht).host_eq⟩

/-! ### Saving and restoring a stream -/

/-- Settles O48: the reads keep the counter and the tweak, and the bytes that CTRRD writes are read back as the counter. -/
theorem savedStreamIsRestored : Obligations.SavedStreamIsRestored := by
  intro s v x T hx hT
  have reads_counter : Writes s .ctrrd (s.setRes (toLE x)) := .ctrrd hx
  have reads_tweak : Writes ((s.setRes (toLE x)).respond .ok) .twrd _ := .twrd hT
  have loads_counter : exec (.ctrld (toLE x)) v = complete (v.setCtr x) := by
    rw [Writes.ctrld.exec_eq, le128_toLE]
  exact ⟨_, _, _, _, toLE x, T, reads_counter.exec_eq, rfl, reads_tweak.exec_eq, rfl, loads_counter,
    Writes.twld.exec_eq, rfl⟩

end Sys2Proof.Machine
end
